-- ==== Sys2Proof/Word.lean ====
section
/-! DEFINITION. The widths of the block: an 8-bit wire byte (R8) and the 32-bit request word (R70). -/

namespace Sys2Proof

/-- One wire symbol, an unsigned 8-bit byte (R8). -/
abbrev Byte := BitVec 8

/-- A 16-bit wire value: length field, checksum or command payload (R8). -/
abbrev Half := BitVec 16

/-- A request word (R70). -/
abbrev Word := BitVec 32

end Sys2Proof
end

