-- ==== Sys2Proof/Config.lean ====
section
/-! DEFINITION. The block parameters of R11 and the sync bytes of R79. The source leaves BUF_SIZE, E_MIN and
VMAX open and the spec fixes them (decision D5). The block has no undefined result, so no free value stands
here: what the spec leaves free (the Transport's answers, the host's actions) are the inputs State holds. -/

namespace Sys2Proof.Config

/-- The size of the frame buffer and the largest legal E (R11; log entry 13). -/
abbrev bufSize : Nat := 32

/-- The smallest legal E (R11). -/
abbrev eMin : Nat := 6

/-- The largest operand count of VERIFY (R11). -/
abbrev vMax : Nat := 32

/-- The size of the command buffer (R35). -/
abbrev cmdSize : Nat := 7

/-- The first sync byte (R79). -/
def sync0 : Byte := 0x42

/-- The second sync byte (R79). -/
def sync1 : Byte := 0x4D

end Sys2Proof.Config
end

