-- ==== Sys2Proof/Syntax.lean ====
section
/-! DEFINITION. The instructions (operations) of the block: one constructor per row of the opcode table, and the
request by which the host selects one. -/

namespace Sys2Proof

/-- An operation as the assembler syntax of R90 and R91 writes it. The 8-bit argument is ARG8 of the request word as
it stands (R70), so that a request outside the limits of R76 can be written and is refused. -/
inductive Instr where
  /-- `SYNC.S E`: Synchronize-and-read, Strict (R114). -/
  | syncS (e : Byte)
  /-- `SYNC.T E`: Synchronize-and-read, Tolerant (R115). -/
  | syncT (e : Byte)
  /-- `ENC code, payload`: Encode-command (R160). -/
  | enc (code : Byte) (payload : Half)
  /-- `VERIFY n, [b0, …]`: checksum verification of the operand bytes (R145). -/
  | verify (n : Byte) (ops : List Byte)
  /-- `READ_DATA`, which is `SYNC.S 32` (R116). -/
  | readData
  /-- `READ_STATUS`, which is `SYNC.S 8` (R117). -/
  | readStatus
  /-- `SET_PASSIVE`, which is `ENC 0xE1, 0` (R164). -/
  | setPassive
  /-- `SET_ACTIVE`, which is `ENC 0xE1, 1` (R165). -/
  | setActive
  /-- `REQ_READ`, which is `ENC 0xE2, 0` (R166). -/
  | reqRead
  /-- `SLEEP`, which is `ENC 0xE4, 0` (R167). -/
  | sleep
  /-- `WAKE`, which is `ENC 0xE4, 1` (R168). -/
  | wake
deriving DecidableEq, Repr

/-- What the host presents: a 32-bit request word, and the operand bytes of a VERIFY request (R70, R72). -/
structure Request where
  /-- the request word `w` -/
  word : Word
  /-- the operand bytes carried with it; empty but for VERIFY (R72) -/
  ops : List Byte
deriving DecidableEq, Repr

/-- R91: the base operation that a named call site or command stands for. Base operations stand for themselves. -/
def Instr.expand : Instr → Instr
  | .syncS e => .syncS e
  | .syncT e => .syncT e
  | .enc code payload => .enc code payload
  | .verify n ops => .verify n ops
  | .readData => .syncS 32
  | .readStatus => .syncS 8
  | .setPassive => .enc 0xE1 0
  | .setActive => .enc 0xE1 1
  | .reqRead => .enc 0xE2 0
  | .sleep => .enc 0xE4 0
  | .wake => .enc 0xE4 1

end Sys2Proof
end

