-- ==== Sys2Proof/WellFormed.lean ====
section
/-! DEFINITION. Which instructions are well formed: the operand limits of R76. -/

namespace Sys2Proof

/-- The limits that R76 puts on an operation's operands: `E_MIN ≤ E ≤ BUF_SIZE` for SYNC, `2 ≤ n ≤ VMAX` and exactly
`n` operand bytes for VERIFY, none for ENC. The named call sites and commands are always legal. -/
def Instr.wellFormed : Instr → Bool
  | .syncS e => decide (Config.eMin ≤ e.toNat ∧ e.toNat ≤ Config.bufSize)
  | .syncT e => decide (Config.eMin ≤ e.toNat ∧ e.toNat ≤ Config.bufSize)
  | .enc _ _ => true
  | .verify n ops => decide (2 ≤ n.toNat ∧ n.toNat ≤ Config.vMax ∧ ops.length = n.toNat)
  | .readData => true
  | .readStatus => true
  | .setPassive => true
  | .setActive => true
  | .reqRead => true
  | .sleep => true
  | .wake => true

/-- An instruction whose operands are within the limits of R76. -/
abbrev WellFormed (i : Instr) : Prop := i.wellFormed = true

end Sys2Proof
end

