-- ==== Sys2Proof/Decode.lean ====
section
/-! DEFINITION. The request decoder (R70 to R78, R92) and the encoder. The decoder selects an opcode-table row from the
bits that the row's mask fixes. The limits on E, on n and on the operand count are in no mask (R92): `wellFormed`
states them, and acceptance checks them. -/

namespace Sys2Proof

/-- OP, `w[3:0]` (R70). -/
def Request.opBits (r : Request) : BitVec 4 := r.word.extractLsb' 0 4

/-- `w[7:4]`: POL and the reserved bits (R70). -/
def Request.midBits (r : Request) : BitVec 4 := r.word.extractLsb' 4 4

/-- ARG8, `w[15:8]`: E, code or n (R70, R78). -/
def Request.arg8 (r : Request) : Byte := r.word.extractLsb' 8 8

/-- ARG16, `w[31:16]`: the payload of ENC (R70, R78). -/
def Request.arg16 (r : Request) : Half := r.word.extractLsb' 16 16

/-- Why the decoder finds no row of the opcode table for a request word: the bits R76 calls reserved. -/
inductive DecodeRefusal where
  /-- R76.1: OP is none of 1, 2, 3. -/
  | reservedOp (op : BitVec 4)
  /-- R76.2: SYNC with `w[7:5] ≠ 0`. -/
  | syncReservedBits
  /-- R76.2: SYNC with `w[31:16] ≠ 0`. -/
  | syncArg16
  /-- R76.3: ENC with `w[7:4] ≠ 0`. -/
  | encReservedBits
  /-- R76.4: VERIFY with `w[7:4] ≠ 0`. -/
  | verifyReservedBits
  /-- R76.4: VERIFY with `w[31:16] ≠ 0`. -/
  | verifyArg16
deriving DecidableEq, Repr

/-- The row of the opcode table that the request selects, with its operands (R71, R73 to R75, R78, R92), or the named
reason for which it selects none. A word of a named call site decodes to its base operation (R91; log entry 10).
Operand bytes on a request that is no VERIFY are ignored (log entry 9). -/
def decode (r : Request) : Except DecodeRefusal Instr :=
  if r.opBits = 1 then
    if r.midBits.extractLsb' 1 3 ≠ 0 then .error .syncReservedBits
    else if r.arg16 ≠ 0 then .error .syncArg16
    else if r.midBits.extractLsb' 0 1 = 0 then .ok (.syncS r.arg8)
    else .ok (.syncT r.arg8)
  else if r.opBits = 2 then
    if r.midBits ≠ 0 then .error .encReservedBits
    else .ok (.enc r.arg8 r.arg16)
  else if r.opBits = 3 then
    if r.midBits ≠ 0 then .error .verifyReservedBits
    else if r.arg16 ≠ 0 then .error .verifyArg16
    else .ok (.verify r.arg8 r.ops)
  else .error (.reservedOp r.opBits)

/-- The total request decoder of R77: exactly one of SYNC.S, SYNC.T, ENC and VERIFY, or `none` for REFUSED. -/
def decodeLegal (r : Request) : Option Instr :=
  match decode r with
  | .ok i => if i.wellFormed then some i else none
  | .error _ => none

/-- A request word from its fields (R70). -/
def requestWord (arg16 : Half) (arg8 : Byte) (mid : BitVec 4) (op : BitVec 4) : Word :=
  arg16 ++ arg8 ++ mid ++ op

/-- The request that stands for an instruction: the encodings of R73 to R75, and the words of R91. -/
def encode : Instr → Request
  | .syncS e => ⟨requestWord 0 e 0 1, []⟩
  | .syncT e => ⟨requestWord 0 e 1 1, []⟩
  | .enc code payload => ⟨requestWord payload code 0 2, []⟩
  | .verify n ops => ⟨requestWord 0 n 0 3, ops⟩
  | .readData => ⟨0x00002001, []⟩
  | .readStatus => ⟨0x00000801, []⟩
  | .setPassive => ⟨0x0000E102, []⟩
  | .setActive => ⟨0x0001E102, []⟩
  | .reqRead => ⟨0x0000E202, []⟩
  | .sleep => ⟨0x0000E402, []⟩
  | .wake => ⟨0x0001E402, []⟩

/-- Byte `k` of a number, byte 0 the least significant. -/
def byteOf (w k : Nat) : Byte := BitVec.ofNat 8 (w / 2 ^ (8 * k))

/-- The request whose bits are the low `nbits` of `w`: the request word is bits 31..0, and a VERIFY's operand bytes
follow it, byte k in bits 39+8k..32+8k, as many as its ARG8 says (log entry 19). -/
def tableRequest (nbits w : Nat) : Request :=
  let bits := w % 2 ^ nbits
  let bare : Request := ⟨BitVec.ofNat 32 bits, []⟩
  if bare.opBits = 3 then ⟨bare.word, (List.range bare.arg8.toNat).map fun k => byteOf bits (4 + k)⟩
  else bare

/-- The instruction the decoder reads from an instruction whose bits are `w` (the host's numbering). -/
def decodeTableWord (nbits w : Nat) : Option Instr :=
  (decode (tableRequest nbits w)).toOption

end Sys2Proof
end

