-- ==== Sys2Proof/Machine/State.lean ====
section
/-! DEFINITION. Everything the spec gives the machine: the block's registers and buffers (R26 to R35), the result
record (R34), and the inputs of the two other agents, the Transport (R24) and the host (R22), as plain lists. -/

namespace Sys2Proof.Machine

/-- A byte buffer, as (index, byte) pairs with indices strictly rising. An index that is not listed is UNWRITTEN: it
has no value (R32, R35; `Memory.wf` in Ops.lean is the canonical form). -/
abbrev Memory := List Host.Cell

/-- Which operation a register names: `op` of R26 and `rop` of R34. The codes are 0, 1, 2, 3 in this order. -/
inductive OpSel where
  /-- 0: none, or a refused request -/
  | none
  /-- 1: Synchronize-and-read -/
  | sync
  /-- 2: Encode-command -/
  | enc
  /-- 3: VERIFY -/
  | verify
deriving DecidableEq, Repr

/-- The length policy `pol` of R26: 0 = Strict (R106), 1 = Tolerant (R107). -/
inductive Policy where
  /-- 0 -/
  | strict
  /-- 1 -/
  | tolerant
deriving DecidableEq, Repr

/-- The receive state `rs` of R27, which names the next step of the running operation. -/
inductive RecvState where
  /-- no operation running -/
  | idle
  /-- hunting, no `0x42` pending -/
  | hunt0
  /-- hunting, the last byte read was `0x42` -/
  | hunt1
  /-- sync found, the high length byte comes next -/
  | lenHi
  /-- the low length byte comes next -/
  | lenLo
  /-- length accepted, the next body byte comes next -/
  | body
deriving DecidableEq, Repr

/-- The completion statuses of R181; their codes 0 to 7 are in this order. -/
inductive Status where
  /-- 0: OK -/
  | ok
  /-- 1: TIMEOUT -/
  | timeout
  /-- 2: LENGTH_MISMATCH -/
  | lengthMismatch
  /-- 3: CHECKSUM_INVALID -/
  | checksumInvalid
  /-- 4: TRANSPORT_ERROR -/
  | transportError
  /-- 5: INVALID_STATE, reserved; the block never produces it (R184) -/
  | invalidState
  /-- 6: ILLEGAL_REQUEST -/
  | illegalRequest
  /-- 7: NONE, after reset and before any completion -/
  | none
deriving DecidableEq, Repr

/-- The result record of R34. `none` in a field is UNWRITTEN. -/
structure Result where
  /-- completion status, 3 bits (R181) -/
  st : Status
  /-- which operation completed, 2 bits; 0 = none or refused -/
  rop : OpSel
  /-- number of `RxRead()` calls the operation made -/
  nrx : BitVec 8
  /-- the length field read -/
  lenf_r : Option Half
  /-- whether `lenf + 4 = E` -/
  lmatch : Option Bool
  /-- computed checksum -/
  csc : Option Half
  /-- received (stored) checksum -/
  csr : Option Half
deriving DecidableEq, Repr

/-- One answer of the Transport to `RxRead()` (R24). -/
inductive RxEvent where
  /-- `Byte(b)` -/
  | byte (b : Byte)
  /-- the Transport's explicit timeout signal -/
  | timeout
  /-- a transport read error -/
  | error
deriving DecidableEq, Repr

/-- A register or buffer byte the host can read (R37, R53). -/
inductive HostReg where
  /-- `busy`, readable always -/
  | busy
  /-- `st` -/
  | st
  /-- `rop` -/
  | rop
  /-- `nrx` -/
  | nrx
  /-- `lenf_r` -/
  | lenf_r
  /-- `lmatch` -/
  | lmatch
  /-- `csc` -/
  | csc
  /-- `csr` -/
  | csr
  /-- `flen` -/
  | flen
  /-- `fbuf[i]` -/
  | fbuf (i : Nat)
  /-- `cbuf[i]` -/
  | cbuf (i : Nat)
deriving DecidableEq, Repr

/-- What the host does in one step of the total order (R22, R61). -/
inductive HostAct where
  /-- nothing: the block moves -/
  | pass
  /-- present a request (R22 a) -/
  | present (r : Request)
  /-- read a host-visible register (R22 b) -/
  | read (g : HostReg)
  /-- assert reset (R22 c, R200) -/
  | reset
deriving DecidableEq, Repr

/-- The machine: the block and the inputs of its two environment agents. -/
structure State where
  /-- R26: the operation latched at acceptance, 2 bits -/
  op : OpSel
  /-- R26: expected total length (SYNC) -/
  E : BitVec 6
  /-- R26: length policy (SYNC), 1 bit -/
  pol : Policy
  /-- R26: command code (ENC) -/
  code : Byte
  /-- R26: command payload (ENC) -/
  payload : Half
  /-- R26: operand count (VERIFY) -/
  n : BitVec 6
  /-- R26: the 32 operand bytes `vop[0..31]` (VERIFY) -/
  vop : List Byte
  /-- R27: receive state -/
  rs : RecvState
  /-- R29: bytes charged against the scan budget -/
  scan : BitVec 7
  /-- R30: frame bytes stored so far, the next index to store at -/
  idx : BitVec 6
  /-- R33, R141: running sum of the stored frame bytes (`State.coveredSum` reads it without the stored checksum) -/
  acc : Half
  /-- R30: the length field as read -/
  lenf : Half
  /-- R30: the target total frame size -/
  T : BitVec 17
  /-- the running operation's `nrx` (R100, R101), not yet published (log entry 7) -/
  pnrx : BitVec 8
  /-- the running operation's `lenf_r` (R105), not yet published (log entry 7) -/
  plenf : Option Half
  /-- the running operation's `lmatch` (R105), not yet published (log entry 7) -/
  pmatch : Option Bool
  /-- R32: frame buffer -/
  fbuf : Memory
  /-- R32: number of valid frame bytes -/
  flen : BitVec 6
  /-- R35: command buffer -/
  cbuf : Memory
  /-- R34: result record, published at completion -/
  res : Result
  /-- R24, R25: the Transport's answers not yet consumed, oldest first; empty means no answer comes (log entry 3) -/
  rx : List RxEvent
  /-- R22, R208: the request the host holds until it is accepted -/
  req : Option Request
  /-- the host's further actions, in order (the model's own field, log entry 2) -/
  host : List HostAct
  /-- the value the host's last read returned (the model's own field, log entry 20) -/
  hostData : Option (BitVec 16)
deriving DecidableEq, Repr

/-- Why the model stops. R205 and R207 name host faults; the block itself has no trap (R186). -/
inductive Fault where
  /-- R205: the host read a register other than `busy` while `busy = 1`. Raised by `hostRead`. Safe: the spec gives
  this read no value. -/
  | hostReadBusy (g : HostReg)
  /-- R207: the host read an UNWRITTEN buffer byte or result field. Raised by `hostRead`. Safe: the spec gives this
  read no value. -/
  | hostReadUnwritten (g : HostReg)
  /-- R50: the host read a buffer at an index it does not have. Raised by `hostRead`. Safe (log entry 14). -/
  | hostReadNoEntry (g : HostReg)
  /-- The block would store at an index that `fbuf` does not have. Raised by `bodyByte`. Safe: no state that a run
  reaches (log entry 16). -/
  | fbufOverrun
  /-- The block would use an `fbuf` byte it never stored, or a frame of under two bytes. Raised by `lenLoByte` and
  `verifyFrame`. Safe: no state that a run reaches (log entry 16). -/
  | fbufUnwritten
deriving DecidableEq, Repr

/-- Why the model gives no meaning. -/
inductive Refusal where
  /-- An instruction whose arm of `exec` gives it no meaning. Raised by no arm of this model. Safe. -/
  | notModelled (mnemonic : String)
deriving DecidableEq, Repr

/-- The result record after reset (R39): NONE, and every optional field UNWRITTEN. -/
def Result.reset : Result :=
  { st := .none, rop := .none, nrx := 0, lenf_r := none, lmatch := none, csc := none, csr := none }

/-- The machine right after reset (R39, R202), waiting in IDLE with no request presented. The latch registers, which
R39 leaves unspecified, hold zero (DESIGN CHOICE, log entry 5). -/
def State.reset : State :=
  { op := .none, E := 0, pol := .strict, code := 0, payload := 0, n := 0, vop := List.replicate Config.vMax 0,
    rs := .idle, scan := 0, idx := 0, acc := 0, lenf := 0, T := 0, pnrx := 0, plenf := none, pmatch := none,
    fbuf := [], flen := 0, cbuf := [], res := Result.reset,
    rx := [], req := none, host := [], hostData := none }

end Sys2Proof.Machine
end

