-- ==== Sys2Proof/Machine/Operands.lean ====
section
/-! DEFINITION. Operand assembly and the arithmetic of the block: 16-bit values from bytes (R13, R51), checksums
(R15, R140), the scan budget (R10) and the operand limits of R76. -/

namespace Sys2Proof.Machine

/-- `hi8(v) = v[15:8]` (R13). -/
def hi8 (v : Half) : Byte := v.extractLsb' 8 8

/-- `lo8(v) = v[7:0]` (R13). -/
def lo8 (v : Half) : Byte := v.extractLsb' 0 8

/-- `be16(h, l) = h·256 + l` (R13). -/
def be16 (h l : Byte) : Half := BitVec.ofNat 16 (h.toNat * 256 + l.toNat)

/-- The exact sum of a byte list, every byte unsigned (R15). -/
def byteSum : List Byte → Nat
  | [] => 0
  | b :: bs => b.toNat + byteSum bs

/-- `sum16`: the sum of the bytes mod 65536 (R15). -/
def sum16 (s : List Byte) : Half := BitVec.ofNat 16 (byteSum s)

/-- `computed(s)` of R140: the checksum over every byte but the final two. -/
def computed (s : List Byte) : Half := sum16 (s.take (s.length - 2))

/-- `stored(s)` of R140: the big-endian value of the final two bytes. R140 gives it for `|s| ≥ 2`, and every caller
checks that. -/
def stored (s : List Byte) : Half := be16 (s.getD (s.length - 2) 0) (s.getD (s.length - 1) 0)

/-- The scan budget `B(E) = 2E + 1` (R10). -/
def scanBudget (e : BitVec 6) : Nat := 2 * e.toNat + 1

/-- R76.2: E is legal when `E_MIN ≤ E ≤ BUF_SIZE`. -/
def legalLen (e : Byte) : Bool := decide (Config.eMin ≤ e.toNat ∧ e.toNat ≤ Config.bufSize)

/-- R76.4: a VERIFY is legal when `2 ≤ n ≤ VMAX` and it carries exactly `n` operand bytes. -/
def legalCount (n : Byte) (ops : List Byte) : Bool :=
  decide (2 ≤ n.toNat ∧ n.toNat ≤ Config.vMax ∧ ops.length = n.toNat)

/-- The target total frame size `T` that the policy gives for a length field (R106, R107), or `none` where Strict
finds a mismatch. `lenf + 4` does not wrap (R105). -/
def targetLen (pol : Policy) (lenf : Half) (e : BitVec 6) : Option (BitVec 17) :=
  match pol with
  | .strict => if lenf.toNat + 4 = e.toNat then some (e.setWidth 17) else none
  | .tolerant => some (BitVec.ofNat 17 (min (lenf.toNat + 4) e.toNat))

/-- The seven bytes of a command frame (R84, R160). -/
def commandFrame (code : Byte) (payload : Half) : List Byte :=
  let covered := [Config.sync0, Config.sync1, code, hi8 payload, lo8 payload]
  covered ++ [hi8 (sum16 covered), lo8 (sum16 covered)]

end Sys2Proof.Machine
end

