-- ==== Sys2Proof/Machine/Flags.lean ====
section
/-! DEFINITION. The block has no flags (R36). Its condition outputs are `st`, `lmatch` and `busy`, and this file says
how each is computed, with the numeric codes the host reads. -/

namespace Sys2Proof.Machine

/-- `busy` (R28): an operation is running. -/
def State.busy (s : State) : Bool := decide (s.rs ≠ .idle)

/-- `lmatch` (R105): `lenf + 4 = E`, computed without wrap-around. -/
def lengthMatches (lenf : Half) (e : BitVec 6) : Bool := decide (lenf.toNat + 4 = e.toNat)

/-- The verdict of a checksum comparison (R109, R143, R145). -/
def verdict (csc csr : Half) : Status := if csc = csr then .ok else .checksumInvalid

/-- The 3-bit code of a status (R181). -/
def Status.toBits : Status → BitVec 3
  | .ok => 0
  | .timeout => 1
  | .lengthMismatch => 2
  | .checksumInvalid => 3
  | .transportError => 4
  | .invalidState => 5
  | .illegalRequest => 6
  | .none => 7

/-- The 2-bit code of an operation (R26, R34). -/
def OpSel.toBits : OpSel → BitVec 2
  | .none => 0
  | .sync => 1
  | .enc => 2
  | .verify => 3

end Sys2Proof.Machine
end

