-- ==== Sys2Proof/Machine/Ops.lean ====
section
/-! DEFINITION. The shared operations: byte buffers, acceptance and refusal of a request, the consumption of an Rx
event, and completion (`finish`, R180), which is the block's only way to end an operation: the block takes no
exception and returns from none (R186, R187). -/

namespace Sys2Proof.Machine

/-! ### Byte buffers -/

/-- The byte at index `a`, or `none` where it is UNWRITTEN (R32, R35). -/
def Memory.read (m : Memory) (a : Nat) : Option Byte :=
  match m with
  | [] => none
  | (x, b) :: rest => if x = a then some b else Memory.read rest a

/-- Writes one byte and keeps the indices strictly rising. -/
def Memory.write (m : Memory) (a : Nat) (b : Byte) : Memory :=
  match m with
  | [] => [(a, b)]
  | (x, c) :: rest =>
    if a < x then (a, b) :: (x, c) :: rest
    else if a = x then (a, b) :: rest
    else (x, c) :: Memory.write rest a b

/-- Every entry UNWRITTEN (R100). -/
def Memory.cleared : Memory := []

/-- Writes a list of bytes at rising indices from `a` on. -/
def Memory.writeAll (m : Memory) (a : Nat) (bs : List Byte) : Memory :=
  match bs with
  | [] => m
  | b :: rest => Memory.writeAll (Memory.write m a b) (a + 1) rest

/-- The `k` bytes at indices from `a` on, or `none` where one of them is UNWRITTEN. -/
def Memory.readFrom (m : Memory) (a : Nat) (k : Nat) : Option (List Byte) :=
  match k with
  | 0 => some []
  | k + 1 =>
    match Memory.read m a, Memory.readFrom m (a + 1) k with
    | some b, some bs => some (b :: bs)
    | _, _ => none

/-- The canonical form of a buffer of `size` bytes: indices strictly rising and below `size`. An entry always holds a
byte, so none equals what an unlisted index reads as. -/
abbrev Memory.wf (size : Nat) (m : Memory) : Prop :=
  m.Pairwise (fun c d => c.1 < d.1) ∧ ∀ c ∈ m, c.1 < size

/-! ### Completion -/

/-- A result record whose optional fields are all UNWRITTEN (R180.1). -/
def Result.blank (st : Status) (rop : OpSel) (nrx : BitVec 8) : Result :=
  { st := st, rop := rop, nrx := nrx, lenf_r := none, lmatch := none, csc := none, csr := none }

/-- `finish` (R180): publishes the whole result record and returns to IDLE, so that `busy` falls. -/
def finish (r : Result) (s : State) : State := { s with res := r, rs := .idle }

/-- `finish(st)` of a SYNC (R110). `checks` holds `csc` and `csr` where verification ran (R109). -/
def finishSync (st : Status) (checks : Option (Half × Half)) (s : State) : State :=
  { finish { st := st, rop := .sync, nrx := s.pnrx, lenf_r := s.plenf, lmatch := s.pmatch,
             csc := checks.map (·.1), csr := checks.map (·.2) } s with flen := s.idx }

/-- A refused request (R183): ILLEGAL_REQUEST, `rop = 0`, `nrx = 0`, the other fields UNWRITTEN, nothing else. -/
def refuseRequest (s : State) : State := finish (Result.blank .illegalRequest .none 0) s

/-! ### Acceptance -/

/-- Takes a request only when `rs = IDLE` (R22, R183): a legal one is accepted, any other is refused in the same step.
While an operation runs nothing happens: the host goes on holding the request (R208; log entry 12). -/
def takeRequest (legal : Bool) (accepted : State → State) (s : State) : Host.Outcome State Fault Refusal :=
  if s.busy then .next s
  else if legal then .next (accepted s)
  else .next (refuseRequest s)

/-- Acceptance of SYNC (R100). -/
def startSync (pol : Policy) (e : Byte) (s : State) : State :=
  { s with
    op := .sync, E := e.setWidth 6, pol := pol,
    fbuf := Memory.cleared, flen := 0, idx := 0, scan := 0, acc := 0, lenf := 0, T := 0,
    pnrx := 0, plenf := none, pmatch := none, rs := .hunt0 }

/-- ENC, whole (R160): latches the operands, writes all seven `cbuf` bytes and completes with OK. -/
def encodeCommand (code : Byte) (payload : Half) (s : State) : State :=
  let frame := commandFrame code payload
  finish { Result.blank .ok .enc 0 with csc := some (sum16 (frame.take 5)) }
    { s with op := .enc, code := code, payload := payload, cbuf := Memory.writeAll s.cbuf 0 frame }

/-- VERIFY, whole (R145): latches `n` and the operand bytes, compares `computed` and `stored` over `vop[0..n-1]`, and
completes. -/
def verifyBytes (n : Byte) (ops : List Byte) (s : State) : State :=
  let vop := ops ++ s.vop.drop ops.length
  let v := vop.take n.toNat
  finish { Result.blank (verdict (computed v) (stored v)) .verify 0 with
           csc := some (computed v), csr := some (stored v) }
    { s with op := .verify, n := n.setWidth 6, vop := vop }

/-! ### Rx events -/

/-- The oldest event is consumed, never to be seen again, and counted (R25, R101). -/
def consume (rest : List RxEvent) (s : State) : State := { s with rx := rest, pnrx := s.pnrx + 1 }

/-- One `RxRead()` (R24, R25, R101): consumes the next event and counts it. Timeout and Error end the SYNC; a byte is
handed to `onByte`. Where the Transport gives no answer the block stays as it is, busy (R190; log entry 3). -/
def rxRead (onByte : Byte → State → Host.Outcome State Fault Refusal) (s : State) :
    Host.Outcome State Fault Refusal :=
  match s.rx with
  | [] => .next s
  | .byte b :: rest => onByte b (consume rest s)
  | .timeout :: rest => .next (finishSync .timeout none (consume rest s))
  | .error :: rest => .next (finishSync .transportError none (consume rest s))

/-- Stores a frame byte at index `i`: `fbuf[i] <- b; idx <- i + 1` (R105, R108), and adds it to `acc` (R141). -/
def storeByte (i : Nat) (b : Byte) (s : State) : State :=
  { s with fbuf := Memory.write s.fbuf i b, idx := BitVec.ofNat 6 (i + 1), acc := s.acc + b.setWidth 16 }

/-- The byte at index `i` as a summand, 0 where it is UNWRITTEN. -/
def Memory.summand (m : Memory) (i : Nat) : Half := ((Memory.read m i).map (·.setWidth 16)).getD 0

/-- The accumulator as R33 reads it: `sum16` of the frame bytes received so far, not counting the two bytes at `T-2` and
`T-1` that turn out to be the stored checksum. It is the second view of the one register `acc`, which R141 updates with
every stored byte: `(acc − fbuf[T-2] − fbuf[T-1]) mod 65536` (R141), each subtracted once stored. Before `BODY`
there is no `T`, so no stored byte is known to be part of the checksum (log entry 8). -/
def State.coveredSum (s : State) : Half :=
  if s.rs = .body then s.acc - Memory.summand s.fbuf (s.T.toNat - 2) - Memory.summand s.fbuf (s.T.toNat - 1)
  else s.acc

/-- Reset (R39, R200): every piece of the block's state takes its reset value. The Rx stream and the host's own side
are not the block's and stay (log entry 6). -/
def resetBlock (s : State) : State :=
  { State.reset with rx := s.rx, req := s.req, host := s.host, hostData := s.hostData }

end Sys2Proof.Machine
end

