-- ==== Sys2Proof/Machine/Checksum.lean ====
section
/-! DEFINITION. The checksum family (41_checksum.md): the meaning of VERIFY. -/

namespace Sys2Proof.Machine

/-- `VERIFY n, [v0 … v(n-1)]` (R145). -/
def execVerify (n : Byte) (ops : List Byte) (s : State) : Host.Outcome State Fault Refusal :=
  takeRequest (legalCount n ops) (verifyBytes n ops) s

end Sys2Proof.Machine
end

