-- ==== Sys2Proof/Machine/Command.lean ====
section
/-! DEFINITION. The command family (42_command.md): the meanings of ENC and of the five named commands. -/

namespace Sys2Proof.Machine

/-- `ENC code, payload` (R160): every code and every payload is legal. -/
def execEnc (code : Byte) (payload : Half) (s : State) : Host.Outcome State Fault Refusal :=
  takeRequest true (encodeCommand code payload) s

/-- `SET_PASSIVE` (R164): `ENC 0xE1, 0`. -/
def execSetPassive (s : State) : Host.Outcome State Fault Refusal :=
  takeRequest true (encodeCommand 0xE1 0) s

/-- `SET_ACTIVE` (R165): `ENC 0xE1, 1`. -/
def execSetActive (s : State) : Host.Outcome State Fault Refusal :=
  takeRequest true (encodeCommand 0xE1 1) s

/-- `REQ_READ` (R166): `ENC 0xE2, 0`. -/
def execReqRead (s : State) : Host.Outcome State Fault Refusal :=
  takeRequest true (encodeCommand 0xE2 0) s

/-- `SLEEP` (R167): `ENC 0xE4, 0`. -/
def execSleep (s : State) : Host.Outcome State Fault Refusal :=
  takeRequest true (encodeCommand 0xE4 0) s

/-- `WAKE` (R168): `ENC 0xE4, 1`. -/
def execWake (s : State) : Host.Outcome State Fault Refusal :=
  takeRequest true (encodeCommand 0xE4 1) s

end Sys2Proof.Machine
end

