-- ==== Sys2Proof/Machine/Receive.lean ====
section
/-! DEFINITION. The receive family (40_receive.md): the meanings of SYNC.S, SYNC.T, READ_DATA and READ_STATUS, which
accept the request (R100), and the steps of the running SYNC (R101 to R110), one Rx event or one completion each
(R123; log entry 1). -/

namespace Sys2Proof.Machine

/-- `SYNC.S E` (R114). -/
def execSyncS (e : Byte) (s : State) : Host.Outcome State Fault Refusal :=
  takeRequest (legalLen e) (startSync .strict e) s

/-- `SYNC.T E` (R115). -/
def execSyncT (e : Byte) (s : State) : Host.Outcome State Fault Refusal :=
  takeRequest (legalLen e) (startSync .tolerant e) s

/-- `READ_DATA` (R116): `SYNC.S 32`. -/
def execReadData (s : State) : Host.Outcome State Fault Refusal :=
  takeRequest true (startSync .strict 32) s

/-- `READ_STATUS` (R117): `SYNC.S 8`. -/
def execReadStatus (s : State) : Host.Outcome State Fault Refusal :=
  takeRequest true (startSync .strict 8) s

/-- Charges a byte of the hunt against the budget and takes it as a candidate first sync byte (R102, R103, R104). -/
def chargeByte (b : Byte) (s : State) : State :=
  { s with scan := s.scan + 1, rs := if b = Config.sync0 then .hunt1 else .hunt0 }

/-- The byte of `HUNT0` (R102). -/
def hunt0Byte (b : Byte) (s : State) : Host.Outcome State Fault Refusal := .next (chargeByte b s)

/-- Sync found (R104): the two sync bytes are stored, and added to `acc` (R141). -/
def lockSync (s : State) : State :=
  { storeByte 1 Config.sync1 (storeByte 0 Config.sync0 s) with rs := .lenHi }

/-- The byte of `HUNT1` (R104): `0x4D` is looked for before the budget is checked (R185). -/
def hunt1Byte (b : Byte) (s : State) : Host.Outcome State Fault Refusal :=
  if b = Config.sync1 then .next (lockSync s)
  else if s.scan.toNat = scanBudget s.E then .next (finishSync .timeout none s)
  else .next (chargeByte b s)

/-- The byte of `LEN_HI` (R105). -/
def lenHiByte (b : Byte) (s : State) : Host.Outcome State Fault Refusal :=
  .next { storeByte 2 b s with rs := .lenLo }

/-- The byte of `LEN_LO` (R105), and the policy's check in the same step (R106, R107). -/
def lenLoByte (b : Byte) (s : State) : Host.Outcome State Fault Refusal :=
  match Memory.read s.fbuf 2 with
  | none => .fault .fbufUnwritten
  | some h =>
    let lenf := be16 h b
    let s1 := { storeByte 3 b s with
                lenf := lenf, plenf := some lenf, pmatch := some (lengthMatches lenf s.E) }
    match targetLen s.pol lenf s.E with
    | none => .next (finishSync .lengthMismatch none s1)
    | some t => .next { s1 with T := t, rs := .body }

/-- The byte of `BODY` (R108). -/
def bodyByte (b : Byte) (s : State) : Host.Outcome State Fault Refusal :=
  if s.idx.toNat < Config.bufSize then .next (storeByte s.idx.toNat b s)
  else .fault .fbufOverrun

/-- Verification (R109), over the `T` stored bytes as R140 says, and completion. -/
def verifyFrame (s : State) : Host.Outcome State Fault Refusal :=
  match Memory.readFrom s.fbuf 0 s.T.toNat with
  | none => .fault .fbufUnwritten
  | some frame =>
    if 2 ≤ frame.length then
      .next (finishSync (verdict (computed frame) (stored frame)) (some (computed frame, stored frame)) s)
    else .fault .fbufUnwritten

/-- One step of the running SYNC (R123): in `HUNT0` the budget check comes before the read (R102), in `BODY` the
completion check does (R108). -/
def syncStep (s : State) : Host.Outcome State Fault Refusal :=
  match s.rs with
  | .idle => .next s
  | .hunt0 =>
    if s.scan.toNat = scanBudget s.E then .next (finishSync .timeout none s) else rxRead hunt0Byte s
  | .hunt1 => rxRead hunt1Byte s
  | .lenHi => rxRead lenHiByte s
  | .lenLo => rxRead lenLoByte s
  | .body => if s.idx.toNat = s.T.toNat then verifyFrame s else rxRead bodyByte s

end Sys2Proof.Machine
end

