-- ==== Sys2Proof/Machine/Dispatch.lean ====
section
/-! DEFINITION. The meaning of every instruction, one arm per constructor. -/

namespace Sys2Proof.Machine

def exec (i : Instr) (s : State) : Host.Outcome State Fault Refusal :=
  match i with
  | .syncS e => Sys2Proof.Machine.execSyncS e s
  | .syncT e => Sys2Proof.Machine.execSyncT e s
  | .enc code payload => Sys2Proof.Machine.execEnc code payload s
  | .verify n ops => Sys2Proof.Machine.execVerify n ops s
  | .readData => Sys2Proof.Machine.execReadData s
  | .readStatus => Sys2Proof.Machine.execReadStatus s
  | .setPassive => Sys2Proof.Machine.execSetPassive s
  | .setActive => Sys2Proof.Machine.execSetActive s
  | .reqRead => Sys2Proof.Machine.execReqRead s
  | .sleep => Sys2Proof.Machine.execSleep s
  | .wake => Sys2Proof.Machine.execWake s

end Sys2Proof.Machine
end

