-- ==== Sys2Proof/Machine/HostPort.lean ====
section
/-! DEFINITION. The host's side of the block (R22, R37, R53): reading registers and buffer bytes, presenting a
request, asserting reset. -/

namespace Sys2Proof.Machine

/-- A field that may be UNWRITTEN, read by the host (R207). -/
def writtenOr (g : HostReg) (v : Option (BitVec 16)) : Except Fault (BitVec 16) :=
  match v with
  | some x => .ok x
  | none => .error (.hostReadUnwritten g)

/-- One byte of a buffer of `size` bytes, read by the host: `MemRead` of R53. -/
def bufferByte (g : HostReg) (size : Nat) (m : Memory) (i : Nat) : Except Fault (BitVec 16) :=
  if i < size then writtenOr g ((Memory.read m i).map (·.setWidth 16)) else .error (.hostReadNoEntry g)

/-- The value of a host-visible register while `busy = 0` (R37), zero-extended to 16 bits. -/
def idleValue (g : HostReg) (s : State) : Except Fault (BitVec 16) :=
  match g with
  | .busy => .ok ((BitVec.ofBool s.busy).setWidth 16)
  | .st => .ok (s.res.st.toBits.setWidth 16)
  | .rop => .ok (s.res.rop.toBits.setWidth 16)
  | .nrx => .ok (s.res.nrx.setWidth 16)
  | .lenf_r => writtenOr g s.res.lenf_r
  | .lmatch => writtenOr g (s.res.lmatch.map fun b => (BitVec.ofBool b).setWidth 16)
  | .csc => writtenOr g s.res.csc
  | .csr => writtenOr g s.res.csr
  | .flen => .ok (s.flen.setWidth 16)
  | .fbuf i => bufferByte g Config.bufSize s.fbuf i
  | .cbuf i => bufferByte g Config.cmdSize s.cbuf i

/-- What a host read returns: `busy` at any time, any other register only while `busy = 0` (R37, R205). -/
def hostValue (g : HostReg) (s : State) : Except Fault (BitVec 16) :=
  if s.busy && decide (g ≠ .busy) then .error (.hostReadBusy g) else idleValue g s

/-- The host reads a register: the block does not change (R57); the value goes to the host. -/
def hostRead (g : HostReg) (s : State) : Host.Outcome State Fault Refusal :=
  match hostValue g s with
  | .ok v => .next { s with hostData := some v }
  | .error f => .fault f

/-- One step of the total order of R61, given what the block does when it is its move. A request is held while the one
before it waits (R208); the host then has to wait, and the block moves (log entry 4). -/
def totalStep (block : State → Host.Outcome State Fault Refusal) (s : State) : Host.Outcome State Fault Refusal :=
  match s.host with
  | [] => block s
  | .pass :: rest => block { s with host := rest }
  | .present r :: rest =>
    match s.req with
    | none => .next { s with req := some r, host := rest }
    | some _ => block s
  | .read g :: rest => hostRead g { s with host := rest }
  | .reset :: rest => .next (resetBlock { s with host := rest })

end Sys2Proof.Machine
end

