-- ==== Sys2Proof/Machine/Step.lean ====
section
/-! DEFINITION. One step of the machine (R19, R61, R123). -/

namespace Sys2Proof.Machine

/-- The block takes a request that it finds presented: it runs the instruction the decoder reads, and refuses where
the decoder reads none (R76, R183). -/
def takeWord (r : Request) (s : State) : Host.Outcome State Fault Refusal :=
  match decode r with
  | .ok i => exec i s
  | .error _ => .next (refuseRequest s)

/-- One step of the block: in IDLE it takes the presented request, if there is one, and otherwise waits (R201); while
busy it makes one step of the running SYNC. -/
def blockStep (s : State) : Host.Outcome State Fault Refusal :=
  match s.rs, s.req with
  | .idle, some r => takeWord r { s with req := none }
  | .idle, none => .next s
  | _, _ => syncStep s

/-- One step of the total order of the three agents (R61). -/
def step (s : State) : Host.Outcome State Fault Refusal := totalStep blockStep s

/-- `s` with the instruction whose bits are the low `nbits` of `w` presented to a block that is IDLE, and with no host
action before it, so that the next step takes exactly it (log entries 18, 19). -/
def State.withFetchWord (s : State) (nbits w : Nat) : State :=
  { s with rs := .idle, req := some (tableRequest nbits w), host := [] }

end Sys2Proof.Machine
end

