-- ==== Sys2Proof/Machine/StreamForm.lean ====
section
/-! DEFINITION. The function form of SYNC (R123): from the policy, E and the Rx stream to the result record, the frame
kept and the events left (R113). The machine's step does not use it. It is a second reading of the rules, over lists
instead of registers, and a statement says that the two define the same relation. -/

namespace Sys2Proof.Machine

/-- What a completed SYNC leaves: the published record, the bytes `fbuf[0..flen-1]`, and the unconsumed events. -/
structure SyncOutcome where
  /-- the result record (R34) -/
  result : Result
  /-- the frame bytes kept -/
  frame : List Byte
  /-- the events left in the Rx stream (R113) -/
  left : List RxEvent
deriving DecidableEq, Repr

/-- How a hunt ends (R102 to R104). -/
inductive HuntEnd where
  /-- the sync sequence was found after `nrx` reads -/
  | locked (nrx : Nat) (left : List RxEvent)
  /-- the operation completes without sync -/
  | ended (st : Status) (nrx : Nat) (left : List RxEvent)
  /-- the stream ran out: the Transport does not answer (R190) -/
  | unanswered
deriving DecidableEq, Repr

/-- The sync hunt over a stream: `pending` says that the last byte read was `0x42`, and `charged` bytes, which are all
the bytes read so far, count against the budget (R103). -/
def huntStream (budget : Nat) (pending : Bool) (charged : Nat) (rx : List RxEvent) : HuntEnd :=
  match rx with
  | [] => if pending = false ∧ charged = budget then .ended .timeout charged [] else .unanswered
  | ev :: rest =>
    if pending = false ∧ charged = budget then .ended .timeout charged (ev :: rest)
    else
      match ev with
      | .timeout => .ended .timeout (charged + 1) rest
      | .error => .ended .transportError (charged + 1) rest
      | .byte b =>
        if pending = true ∧ b = Config.sync1 then .locked (charged + 1) rest
        else if charged = budget then .ended .timeout (charged + 1) rest
        else huntStream budget (decide (b = Config.sync0)) (charged + 1) rest

/-- How the reading of a given number of bytes ends. -/
inductive TakeEnd where
  /-- all bytes arrived -/
  | got (bytes : List Byte) (left : List RxEvent)
  /-- a Timeout or Error event came after `bytes` (R101) -/
  | ended (st : Status) (bytes : List Byte) (left : List RxEvent)
  /-- the stream ran out (R190) -/
  | unanswered
deriving DecidableEq, Repr

/-- Reads `k` bytes one at a time (R105, R108). -/
def takeBytes (k : Nat) (rx : List RxEvent) : TakeEnd :=
  match k, rx with
  | 0, evs => .got [] evs
  | _ + 1, [] => .unanswered
  | _ + 1, .timeout :: rest => .ended .timeout [] rest
  | _ + 1, .error :: rest => .ended .transportError [] rest
  | k + 1, .byte b :: rest =>
    match takeBytes k rest with
    | .got bs left => .got (b :: bs) left
    | .ended st bs left => .ended st (b :: bs) left
    | .unanswered => .unanswered

/-- The `T` of R106 and R107 as a number, `none` for a Strict mismatch. -/
def streamTarget (pol : Policy) (lenf e : Nat) : Option Nat :=
  match pol with
  | .strict => if lenf + 4 = e then some e else none
  | .tolerant => some (min (lenf + 4) e)

/-- SYNC as a function of the policy, E and the stream (R123), or `none` where the stream ends before the operation
completes: the block then stays busy (R190). -/
def syncStream (pol : Policy) (e : Nat) (rx : List RxEvent) : Option SyncOutcome :=
  match huntStream (2 * e + 1) false 0 rx with
  | .unanswered => none
  | .ended st nrx left => some ⟨Result.blank st .sync (BitVec.ofNat 8 nrx), [], left⟩
  | .locked nrx left =>
    match takeBytes 2 left with
    | .unanswered => none
    | .ended st bs left =>
      some ⟨Result.blank st .sync (BitVec.ofNat 8 (nrx + bs.length + 1)), Config.sync0 :: Config.sync1 :: bs, left⟩
    | .got bs left =>
      let lenf := be16 (bs.getD 0 0) (bs.getD 1 0)
      let head := Config.sync0 :: Config.sync1 :: bs
      let record (st : Status) (reads : Nat) : Result :=
        { Result.blank st .sync (BitVec.ofNat 8 (nrx + 2 + reads)) with
          lenf_r := some lenf, lmatch := some (decide (lenf.toNat + 4 = e)) }
      match streamTarget pol lenf.toNat e with
      | none => some ⟨record .lengthMismatch 0, head, left⟩
      | some t =>
        match takeBytes (t - 4) left with
        | .unanswered => none
        | .ended st bs left => some ⟨record st (bs.length + 1), head ++ bs, left⟩
        | .got bs left =>
          let frame := head ++ bs
          some ⟨{ record (verdict (computed frame) (stored frame)) bs.length with
                  csc := some (computed frame), csr := some (stored frame) }, frame, left⟩

end Sys2Proof.Machine
end

