-- ==== Sys2Proof/Safety.lean ====
section
/-! DEFINITION. What claims speak of: runs, the invariants of the machine, and when a frame may be decoded (R120). -/

namespace Sys2Proof.Machine

/-- `k` steps of the machine, stopping at the first fault or refusal. -/
def run (k : Nat) (s : State) : Host.Outcome State Fault Refusal :=
  match k with
  | 0 => .next s
  | k + 1 =>
    match step s with
    | .next t => run k t
    | .fault f => .fault f
    | .refused r => .refused r

/-- R120: a Reading may be decoded from `fbuf` only then. Decoding itself is outside the block (R7, R211). -/
def readingEligible (s : State) : Prop :=
  s.res.st = .ok ∧ s.flen = 32 ∧ s.res.lmatch = some true

/-- The bytes a buffer holds, in index order. -/
def bytesOf (m : Memory) : List Byte := m.map (·.2)

/-- Exactly the entries 0 to k-1 are written (R32). -/
abbrev filledTo (m : Memory) (k : Nat) : Prop := m.map (·.1) = List.range k

/-- The buffers keep their canonical form, and `vop` its 32 bytes. -/
structure BuffersInv (s : State) : Prop where
  fbufWf : Memory.wf Config.bufSize s.fbuf
  cbufWf : Memory.wf Config.cmdSize s.cbuf
  vopLength : s.vop.length = Config.vMax

/-- What the counters of the running operation say in each receive state (R29 to R31, R102 to R108). Every read of the
hunt is charged but the one that completes the sync (R103), so the number of reads follows from `scan` and `idx`. -/
def countersInv (s : State) : Prop :=
  match s.rs with
  | .idle => True
  | .hunt0 => s.idx.toNat = 0 ∧ s.pnrx.toNat = s.scan.toNat ∧ s.scan.toNat ≤ scanBudget s.E
  | .hunt1 => s.idx.toNat = 0 ∧ s.pnrx.toNat = s.scan.toNat ∧ s.scan.toNat ≤ scanBudget s.E
  | .lenHi => s.idx.toNat = 2 ∧ s.pnrx.toNat + 1 = s.scan.toNat + 2 ∧ s.scan.toNat ≤ scanBudget s.E
  | .lenLo => s.idx.toNat = 3 ∧ s.pnrx.toNat + 1 = s.scan.toNat + 3 ∧ s.scan.toNat ≤ scanBudget s.E
  | .body =>
    4 ≤ s.idx.toNat ∧ s.idx.toNat ≤ s.T.toNat ∧ s.T.toNat ≤ s.E.toNat ∧
      s.pnrx.toNat + 1 = s.scan.toNat + s.idx.toNat ∧ s.scan.toNat ≤ scanBudget s.E

/-- What `fbuf` and the length registers hold in each receive state of the running operation (R104 to R107). -/
def contentInv (s : State) : Prop :=
  match s.rs with
  | .idle => True
  | .hunt0 => s.plenf = none ∧ s.pmatch = none
  | .hunt1 => s.plenf = none ∧ s.pmatch = none
  | .lenHi =>
    bytesOf s.fbuf = [Config.sync0, Config.sync1] ∧ s.plenf = none ∧ s.pmatch = none
  | .lenLo =>
    (bytesOf s.fbuf).take 2 = [Config.sync0, Config.sync1] ∧ s.plenf = none ∧ s.pmatch = none
  | .body =>
    (∃ h l, (bytesOf s.fbuf).take 4 = [Config.sync0, Config.sync1, h, l] ∧ s.lenf = be16 h l) ∧
      s.plenf = some s.lenf ∧ s.pmatch = some (decide (s.lenf.toNat + 4 = s.E.toNat)) ∧
      (s.pol = .strict → s.lenf.toNat + 4 = s.E.toNat ∧ s.T.toNat = s.E.toNat) ∧
      (s.pol = .tolerant → s.T.toNat = min (s.lenf.toNat + 4) s.E.toNat)

/-- The invariant of the running machine: buffers in canonical form, filled exactly as far as the counters say. -/
structure RunInv (s : State) : Prop where
  buffers : BuffersInv s
  cbufWhole : s.cbuf = [] ∨ filledTo s.cbuf Config.cmdSize
  idleFilled : s.busy = false → filledTo s.fbuf s.flen.toNat
  busyFilled : s.busy = true → filledTo s.fbuf s.idx.toNat ∧ s.flen = 0
  busyOp : s.busy = true → s.op = .sync ∧ Config.eMin ≤ s.E.toNat ∧ s.E.toNat ≤ Config.bufSize
  sum : s.busy = true → s.acc = sum16 (bytesOf s.fbuf)
  counters : countersInv s
  content : contentInv s

/-- What a result record can be (R34, R40, R182): which fields each operation writes, with which statuses. -/
def Result.wellShaped (r : Result) : Prop :=
  match r.rop with
  | .none =>
    (r.st = .illegalRequest ∨ r.st = .none) ∧ r.nrx = 0 ∧
      r.lenf_r = none ∧ r.lmatch = none ∧ r.csc = none ∧ r.csr = none
  | .enc =>
    r.st = .ok ∧ r.nrx = 0 ∧ r.lenf_r = none ∧ r.lmatch = none ∧ r.csc.isSome ∧ r.csr = none
  | .verify =>
    r.nrx = 0 ∧ r.lenf_r = none ∧ r.lmatch = none ∧
      ∃ csc csr, r.csc = some csc ∧ r.csr = some csr ∧ r.st = verdict csc csr
  | .sync =>
    r.nrx.toNat ≤ 3 * Config.bufSize ∧ r.lenf_r.isSome = r.lmatch.isSome ∧
      ((r.csc = none ∧ r.csr = none ∧
          (r.st = .timeout ∨ r.st = .transportError ∨ (r.st = .lengthMismatch ∧ r.lmatch = some false))) ∨
        ∃ csc csr, r.csc = some csc ∧ r.csr = some csr ∧ r.st = verdict csc csr ∧ r.lenf_r.isSome)

/-- The whole invariant: the running machine's, and a result record of a shape that R182 gives. -/
structure Inv (s : State) : Prop where
  running : RunInv s
  record : s.res.wellShaped

/-- The running SYNC is at a read: no budget check or completion check stands before it (R102, R108). -/
def atRead (s : State) : Prop :=
  s.rs ≠ .idle ∧ (s.rs = .hunt0 → s.scan.toNat ≠ scanBudget s.E) ∧ (s.rs = .body → s.idx.toNat ≠ s.T.toNat)

/-- Two states that agree on all that a running SYNC and the next request can see: the Rx stream, the request held, the
host's actions, the receive state, and, while an operation runs, its registers and `fbuf` (R38). -/
def sameOperation (s t : State) : Prop :=
  s.rx = t.rx ∧ s.req = t.req ∧ s.host = t.host ∧ s.rs = t.rs ∧
    (s.busy = true →
      s.E = t.E ∧ s.pol = t.pol ∧ s.scan = t.scan ∧ s.idx = t.idx ∧ s.T = t.T ∧ s.pnrx = t.pnrx ∧
        s.plenf = t.plenf ∧ s.pmatch = t.pmatch ∧ s.fbuf = t.fbuf)

/-- A list of bytes with no sync sequence in it: no `0x42` directly followed by `0x4D` (R119). -/
def noSyncPair (g : List Byte) : Prop := ∀ a b, g ≠ a ++ Config.sync0 :: Config.sync1 :: b

/-- A frame that Strict accepts for `E = |f|` (R80, R85): the sync sequence, a length field of `|f| - 4`, and a checksum
that matches. -/
def validFrame (f : List Byte) : Prop :=
  ∃ h l rest, f = Config.sync0 :: Config.sync1 :: h :: l :: rest ∧
    (be16 h l).toNat + 4 = f.length ∧ computed f = stored f

/-! ### What a request, an acceptance and a completion are, in the spec's words -/

/-- R76: the requests that are refused. -/
def illegalRequest (r : Request) : Prop :=
  let op := r.word.extractLsb' 0 4
  let arg8 := (r.word.extractLsb' 8 8).toNat
  (op ≠ 1 ∧ op ≠ 2 ∧ op ≠ 3) ∨
    (op = 1 ∧ (r.word.extractLsb' 5 3 ≠ 0 ∨ r.word.extractLsb' 16 16 ≠ 0 ∨ arg8 < 6 ∨ 32 < arg8)) ∨
    (op = 2 ∧ r.word.extractLsb' 4 4 ≠ 0) ∨
    (op = 3 ∧ (r.word.extractLsb' 4 4 ≠ 0 ∨ r.word.extractLsb' 16 16 ≠ 0 ∨ arg8 < 2 ∨ 32 < arg8 ∨
      r.ops.length ≠ arg8))

/-- R183: `s` after a refused request. -/
def afterRefusal (s : State) : State :=
  { s with
    rs := .idle
    res := { st := .illegalRequest, rop := .none, nrx := 0, lenf_r := none, lmatch := none, csc := none, csr := none } }

/-- R100: `t` is `s` after the acceptance of a SYNC with expected length `e`. -/
def acceptedSync (pol : Policy) (e : Nat) (s t : State) : Prop :=
  t.op = .sync ∧ t.E.toNat = e ∧ t.pol = pol ∧ (∀ i, Memory.read t.fbuf i = none) ∧
    t.flen = 0 ∧ t.idx = 0 ∧ t.scan = 0 ∧ t.acc = 0 ∧ t.lenf = 0 ∧ t.T = 0 ∧ t.pnrx = 0 ∧
    t.plenf = none ∧ t.pmatch = none ∧ t.rs = .hunt0 ∧
    t.code = s.code ∧ t.payload = s.payload ∧ t.n = s.n ∧ t.vop = s.vop ∧
    (∀ i, Memory.read t.cbuf i = Memory.read s.cbuf i) ∧ t.res = s.res ∧
    t.rx = s.rx ∧ t.req = s.req ∧ t.host = s.host ∧ t.hostData = s.hostData

/-- R160: `t` is `s` after the construction of the command frame `frame`. The last clause is the frame condition: only
the fields it names differ. -/
def commandBuilt (code : Byte) (payload : Half) (frame : List Byte) (checksum : Half) (s t : State) : Prop :=
  (∀ i, i < 7 → Memory.read t.cbuf i = frame[i]?) ∧
    (∀ i, 7 ≤ i → Memory.read t.cbuf i = Memory.read s.cbuf i) ∧
    t = { s with
          op := .enc, code := code, payload := payload, cbuf := t.cbuf, rs := .idle
          res := { st := .ok, rop := .enc, nrx := 0, lenf_r := none, lmatch := none, csc := some checksum,
                   csr := none } }

/-- R110: `u` after the completion of a SYNC with status `st`; `u` already counts the last event it read. -/
def completedSync (st : Status) (csc csr : Option Half) (u : State) : State :=
  { u with
    flen := u.idx, rs := .idle
    res := { st := st, rop := .sync, nrx := u.pnrx, lenf_r := u.plenf, lmatch := u.pmatch, csc := csc, csr := csr } }

end Sys2Proof.Machine
end

