-- ==== Sys2Proof/Certificates/Slice0/Obligations.lean ====
section
/-! DEFINITION. The statements for the provers. Each docstring names the rules of spec/ it formalises. -/

open Sys2Proof Sys2Proof.Machine

/-! ### Encodings -/

/-- The example words of R73, R74 and R75 decode to the requests those rules give them. -/
def Obligations.DecodeReadsSpecWords : Prop :=
  decode ⟨0x00002001, []⟩ = .ok (.syncS 32) ∧
    decode ⟨0x00000801, []⟩ = .ok (.syncS 8) ∧
    decode ⟨0x00002011, []⟩ = .ok (.syncT 32) ∧
    decode ⟨0x0000E102, []⟩ = .ok (.enc 0xE1 0) ∧
    decode ⟨0x0001E402, []⟩ = .ok (.enc 0xE4 1) ∧
    ∀ ops, decode ⟨0x00000703, ops⟩ = .ok (.verify 7 ops)

/-- Decode and encode agree for every instruction, with every operand at every value: a named call site's word decodes
to its base operation (R91), any other instruction's request to itself (R73 to R75). -/
def Obligations.DecodeEncodeIsExpand : Prop :=
  ∀ i : Instr, decode (encode i) = .ok i.expand

/-- The other direction: an instruction that the decoder reads encodes to the word it was read from, and a VERIFY to
its operand bytes as well (R73 to R75). -/
def Obligations.EncodeReproducesDecodedWord : Prop :=
  ∀ (r : Request) (i : Instr), decode r = .ok i →
    (encode i).word = r.word ∧ ∀ n ops, i = .verify n ops → (encode i).ops = r.ops

/-- R77, R78: the request decoder is total, and each operand is the bits its rule names. -/
def Obligations.RequestDecoderIsTotal : Prop :=
  ∀ r : Request,
    (illegalRequest r → decodeLegal r = none) ∧
      (¬ illegalRequest r →
        let op := r.word.extractLsb' 0 4
        let arg8 := r.word.extractLsb' 8 8
        (op = 1 → r.word.extractLsb' 4 1 = 0 → decodeLegal r = some (.syncS arg8)) ∧
          (op = 1 → r.word.extractLsb' 4 1 = 1 → decodeLegal r = some (.syncT arg8)) ∧
          (op = 2 → decodeLegal r = some (.enc arg8 (r.word.extractLsb' 16 16))) ∧
          (op = 3 → decodeLegal r = some (.verify arg8 r.ops)))

/-- R92: a word selects the base row of the opcode table whose mask and match it meets. -/
def Obligations.MaskAndMatchSelectTheRow : Prop :=
  ∀ r : Request,
    ((∃ e, decode r = .ok (.syncS e)) ↔ r.word &&& 0xFFFF00FF = 0x00000001) ∧
      ((∃ e, decode r = .ok (.syncT e)) ↔ r.word &&& 0xFFFF00FF = 0x00000011) ∧
      ((∃ c p, decode r = .ok (.enc c p)) ↔ r.word &&& 0x000000FF = 0x00000002) ∧
      ((∃ n ops, decode r = .ok (.verify n ops)) ↔ r.word &&& 0xFFFF00FF = 0x00000003)

/-- R76, R183: a request taken by an idle block is refused, with ILLEGAL_REQUEST and no other effect, exactly when R76
calls it illegal. Any other request is accepted: a SYNC runs, and an ENC or a VERIFY completes. -/
def Obligations.RefusedExactlyWhenIllegal : Prop :=
  ∀ (s : State) (r : Request), s.rs = .idle → s.host = [] → s.req = some r →
    (illegalRequest r → step s = .next (afterRefusal { s with req := none })) ∧
      (¬ illegalRequest r →
        ∃ t, step s = .next t ∧ (t.rs = .hunt0 ∨ (t.rs = .idle ∧ t.res.rop ≠ .none ∧ t.res.st ≠ .illegalRequest)))

/-! ### The step and the agents -/

/-- A step runs the decoded instruction: when it is the block's move, nothing runs and the request held decodes to `i`,
the step is `exec` of `i`, with the request taken. The host's action that lets the block move is used up. The same
holds of a request that `withFetchWord` presents. The last clause carries every statement about a step with no host
action, whether an operation runs or not, to a step at which the host passes, or waits to present while a request is
held: the block makes the same move, and the host has the actions left that it then has. -/
def Obligations.StepRunsDecodedInstruction : Prop :=
  (∀ (s : State) (r : Request) (i : Instr) (rest : List HostAct), s.rs = .idle →
      (s.host = .pass :: rest ∨ (s.host = [] ∧ rest = [])) → s.req = some r → decode r = .ok i →
      step s = exec i { s with req := none, host := rest }) ∧
    (∀ (s : State) (nbits w : Nat) (i : Instr), decodeTableWord nbits w = some i →
      step (s.withFetchWord nbits w) = exec i { s with rs := .idle, req := none, host := [] }) ∧
    ∀ (s : State) (left : List HostAct),
      (s.host = .pass :: left ∨ (s.req ≠ none ∧ left = s.host ∧ ∃ r rest, s.host = .present r :: rest)) →
      (∀ t, step { s with host := [] } = .next t → step s = .next { t with host := left }) ∧
        ∀ f, step { s with host := [] } = .fault f → step s = .fault f

/-- R201: with nothing running and no request presented, the block waits and consumes nothing. -/
def Obligations.IdleBlockWaits : Prop :=
  ∀ s : State, s.rs = .idle → s.req = none → s.host = [] → step s = .next s

/-- R22, R208: a request the host presents is held. While one is held, the host's next one is not taken over and the
block moves as if the host did nothing. -/
def Obligations.PresentedRequestIsHeld : Prop :=
  ∀ (s : State) (r : Request) (rest : List HostAct), s.host = .present r :: rest →
    (s.req = none → step s = .next { s with req := some r, host := rest }) ∧
      (s.req ≠ none → step s = blockStep s)

/-- R208, R64: while an operation runs, the request held stays held, and neither its presence nor its contents change
what the operation does. -/
def Obligations.HeldRequestDoesNotDisturb : Prop :=
  ∀ (s t : State) (q : Option Request), s.busy = true → s.host = [] → step s = .next t →
    t.req = s.req ∧ step { s with req := q } = .next { t with req := q }

/-- R22: an instruction presented while an operation runs is not accepted: `exec` changes nothing. -/
def Obligations.NoAcceptanceWhileBusy : Prop :=
  ∀ (i : Instr) (s : State), s.rs ≠ .idle → exec i s = .next s

/-- No instruction faults or is refused by the model, in any state. -/
def Obligations.ExecAlwaysAnswersNext : Prop :=
  ∀ (i : Instr) (s : State), ∃ t, exec i s = .next t

/-- R91: a named call site or command does what its base operation does. -/
def Obligations.CallSitesMeanTheirBase : Prop :=
  ∀ (i : Instr) (s : State), exec i s = exec i.expand s

/-! ### Acceptance and completion of each instruction -/

/-- R100: acceptance of SYNC.S, SYNC.T, READ_DATA and READ_STATUS, with every field it writes and every field it
leaves. It consumes no Rx event. -/
def Obligations.SyncIsAccepted : Prop :=
  ∀ s : State, s.rs = .idle →
    (∀ e : Byte, 6 ≤ e.toNat → e.toNat ≤ 32 →
        (∃ t, exec (.syncS e) s = .next t ∧ acceptedSync .strict e.toNat s t) ∧
          ∃ t, exec (.syncT e) s = .next t ∧ acceptedSync .tolerant e.toNat s t) ∧
      (∃ t, exec .readData s = .next t ∧ acceptedSync .strict 32 s t) ∧
      ∃ t, exec .readStatus s = .next t ∧ acceptedSync .strict 8 s t

/-- R160, R84: the words of ENC, and what it does. It is accepted only when `rs = IDLE`, and completes in the step that
accepts it, with the seven bytes of the command frame in `cbuf`, the checksum in `csc`, and nothing else changed. -/
def Obligations.EncBuildsTheCommandFrame : Prop :=
  (∀ r : Request, r.word &&& 0x000000FF = 0x00000002 →
      decode r = .ok (.enc (r.word.extractLsb' 8 8) (r.word.extractLsb' 16 16))) ∧
    ∀ (s : State) (code : Byte) (payload : Half),
      (s.rs ≠ .idle → exec (.enc code payload) s = .next s) ∧
        (s.rs = .idle →
          let hi : Byte := payload.extractLsb' 8 8
          let lo : Byte := payload.extractLsb' 0 8
          let c : Half := BitVec.ofNat 16 (0x8F + code.toNat + hi.toNat + lo.toNat)
          ∃ t, exec (.enc code payload) s = .next t ∧
            commandBuilt code payload [0x42, 0x4D, code, hi, lo, c.extractLsb' 8 8, c.extractLsb' 0 8] c s t)

/-- R164 to R168: the words and the frames of the five named commands. -/
def Obligations.NamedCommandsBuildTheirFrames : Prop :=
  ((encode .setPassive).word = 0x0000E102 ∧ (encode .setActive).word = 0x0001E102 ∧
      (encode .reqRead).word = 0x0000E202 ∧ (encode .sleep).word = 0x0000E402 ∧
      (encode .wake).word = 0x0001E402) ∧
  ∀ s : State, s.rs = .idle →
    (∃ t, exec .setPassive s = .next t ∧
        commandBuilt 0xE1 0 [0x42, 0x4D, 0xE1, 0x00, 0x00, 0x01, 0x70] 0x0170 s t) ∧
      (∃ t, exec .setActive s = .next t ∧
        commandBuilt 0xE1 1 [0x42, 0x4D, 0xE1, 0x00, 0x01, 0x01, 0x71] 0x0171 s t) ∧
      (∃ t, exec .reqRead s = .next t ∧
        commandBuilt 0xE2 0 [0x42, 0x4D, 0xE2, 0x00, 0x00, 0x01, 0x71] 0x0171 s t) ∧
      (∃ t, exec .sleep s = .next t ∧
        commandBuilt 0xE4 0 [0x42, 0x4D, 0xE4, 0x00, 0x00, 0x01, 0x73] 0x0173 s t) ∧
      ∃ t, exec .wake s = .next t ∧
        commandBuilt 0xE4 1 [0x42, 0x4D, 0xE4, 0x00, 0x01, 0x01, 0x74] 0x0174 s t

/-- R145: the words of VERIFY, and what it does. It is accepted only when `rs = IDLE`, and completes in the step that
accepts it, with `csc` the sum of the bytes before the final two, `csr` the big-endian value of the final two, and
nothing else changed but the latch it fills. -/
def Obligations.VerifyComparesTheChecksum : Prop :=
  (∀ r : Request, r.word &&& 0xFFFF00FF = 0x00000003 →
      decode r = .ok (.verify (r.word.extractLsb' 8 8) r.ops)) ∧
    ∀ (s : State) (n : Byte) (covered : List Byte) (h l : Byte),
      (s.rs ≠ .idle → exec (.verify n (covered ++ [h, l])) s = .next s) ∧
        (s.rs = .idle → covered.length + 2 = n.toNat → n.toNat ≤ 32 →
          let csc : Half := BitVec.ofNat 16 ((covered.map BitVec.toNat).sum)
          let csr : Half := BitVec.ofNat 16 (h.toNat * 256 + l.toNat)
          exec (.verify n (covered ++ [h, l])) s = .next
            { s with
              op := .verify, n := n.setWidth 6, vop := (covered ++ [h, l]) ++ s.vop.drop n.toNat, rs := .idle
              res := { st := if csc = csr then .ok else .checksumInvalid, rop := .verify, nrx := 0,
                       lenf_r := none, lmatch := none, csc := some csc, csr := some csr } })

/-- R76, R183: an operand outside its limits is refused, with no other effect. -/
def Obligations.IllegalOperandsAreRefused : Prop :=
  ∀ s : State, s.rs = .idle →
    (∀ e : Byte, e.toNat < 6 ∨ 32 < e.toNat →
        exec (.syncS e) s = .next (afterRefusal s) ∧ exec (.syncT e) s = .next (afterRefusal s)) ∧
      ∀ (n : Byte) (ops : List Byte), n.toNat < 2 ∨ 32 < n.toNat ∨ ops.length ≠ n.toNat →
        exec (.verify n ops) s = .next (afterRefusal s)

/-! ### The running SYNC, step by step -/

/-- R101: a Timeout or Error event at any read ends the SYNC. The event is consumed and counted, no byte is stored, and
the bytes already in `fbuf` stay, with `flen = idx`. -/
def Obligations.TransportEventsEndTheSync : Prop :=
  ∀ (s : State) (rest : List RxEvent), atRead s → s.host = [] →
    (s.rx = .timeout :: rest →
        step s = .next (completedSync .timeout none none { s with rx := rest, pnrx := s.pnrx + 1 })) ∧
      (s.rx = .error :: rest →
        step s = .next (completedSync .transportError none none { s with rx := rest, pnrx := s.pnrx + 1 }))

/-- R102, R103: the `HUNT0` step. -/
def Obligations.HuntZeroStep : Prop :=
  ∀ s : State, s.rs = .hunt0 → s.host = [] →
    (s.scan.toNat = 2 * s.E.toNat + 1 → step s = .next (completedSync .timeout none none s)) ∧
      ∀ (b : Byte) (rest : List RxEvent), s.scan.toNat ≠ 2 * s.E.toNat + 1 → s.rx = .byte b :: rest →
        step s = .next { s with
                         rx := rest, pnrx := s.pnrx + 1, scan := s.scan + 1
                         rs := if b = 0x42 then .hunt1 else .hunt0 }

/-- R104, R103: the `HUNT1` step. The `0x4D` that completes the sync is not charged; with the budget used up any other
byte ends the SYNC; else the byte is charged and examined again. `acc` takes the two sync bytes (R141). -/
def Obligations.HuntOneStep : Prop :=
  ∀ (s : State) (b : Byte) (rest : List RxEvent), s.rs = .hunt1 → s.host = [] → s.rx = .byte b :: rest →
    (b = 0x4D →
        ∃ t, step s = .next t ∧ Memory.read t.fbuf 0 = some 0x42 ∧ Memory.read t.fbuf 1 = some 0x4D ∧
          (∀ i, 2 ≤ i → Memory.read t.fbuf i = Memory.read s.fbuf i) ∧
          t = { s with
                rx := rest, pnrx := s.pnrx + 1, fbuf := t.fbuf, idx := 2, acc := s.acc + 0x8F, rs := .lenHi }) ∧
      (b ≠ 0x4D → s.scan.toNat = 2 * s.E.toNat + 1 →
        step s = .next (completedSync .timeout none none { s with rx := rest, pnrx := s.pnrx + 1 })) ∧
      (b ≠ 0x4D → s.scan.toNat ≠ 2 * s.E.toNat + 1 →
        step s = .next { s with
                         rx := rest, pnrx := s.pnrx + 1, scan := s.scan + 1
                         rs := if b = 0x42 then .hunt1 else .hunt0 })

/-- R105: the `LEN_HI` step stores the byte at index 2, and leaves every other entry of `fbuf`. -/
def Obligations.LengthHighStep : Prop :=
  ∀ (s : State) (b : Byte) (rest : List RxEvent), s.rs = .lenHi → s.host = [] → s.rx = .byte b :: rest →
    ∃ t, step s = .next t ∧ Memory.read t.fbuf 2 = some b ∧
      (∀ i, i ≠ 2 → Memory.read t.fbuf i = Memory.read s.fbuf i) ∧
      t = { s with
            rx := rest, pnrx := s.pnrx + 1, fbuf := t.fbuf, idx := 3, acc := s.acc + b.setWidth 16, rs := .lenLo }

/-- R105, R106, R107: the `LEN_LO` step stores the byte at index 3, forms the length field, and applies the policy in
the same step. `lenf + 4` does not wrap. -/
def Obligations.LengthLowStep : Prop :=
  ∀ (s : State) (h l : Byte) (rest : List RxEvent), s.rs = .lenLo → s.host = [] → s.rx = .byte l :: rest →
    Memory.read s.fbuf 2 = some h →
    let total := h.toNat * 256 + l.toNat + 4
    ∃ m : Memory, Memory.read m 3 = some l ∧ (∀ i, i ≠ 3 → Memory.read m i = Memory.read s.fbuf i) ∧
      let u := { s with
                 rx := rest, pnrx := s.pnrx + 1, fbuf := m, idx := 4, acc := s.acc + l.setWidth 16
                 lenf := BitVec.ofNat 16 (h.toNat * 256 + l.toNat)
                 plenf := some (BitVec.ofNat 16 (h.toNat * 256 + l.toNat))
                 pmatch := some (decide (total = s.E.toNat)) }
      (s.pol = .strict → total ≠ s.E.toNat → step s = .next (completedSync .lengthMismatch none none u)) ∧
        (s.pol = .strict → total = s.E.toNat →
          step s = .next { u with T := s.E.setWidth 17, rs := .body }) ∧
        (s.pol = .tolerant →
          step s = .next { u with T := BitVec.ofNat 17 (min total s.E.toNat), rs := .body })

/-- R108: the `BODY` step stores the byte at index `idx`, and leaves every other entry of `fbuf`. -/
def Obligations.BodyStep : Prop :=
  ∀ (s : State) (b : Byte) (rest : List RxEvent), s.rs = .body → s.host = [] → s.rx = .byte b :: rest →
    s.idx.toNat ≠ s.T.toNat → s.idx.toNat < 32 →
    ∃ t, step s = .next t ∧ Memory.read t.fbuf s.idx.toNat = some b ∧
      (∀ i, i ≠ s.idx.toNat → Memory.read t.fbuf i = Memory.read s.fbuf i) ∧
      t = { s with
            rx := rest, pnrx := s.pnrx + 1, fbuf := t.fbuf, idx := s.idx + 1, acc := s.acc + b.setWidth 16 }

/-- R109, R110: when `idx = T` the block verifies and completes, without a read. -/
def Obligations.VerificationStep : Prop :=
  ∀ (s : State) (covered : List Byte) (h l : Byte), s.rs = .body → s.host = [] →
    s.idx.toNat = s.T.toNat → (List.range s.T.toNat).map (Memory.read s.fbuf) = (covered ++ [h, l]).map some →
    let csc : Half := BitVec.ofNat 16 ((covered.map BitVec.toNat).sum)
    let csr : Half := BitVec.ofNat 16 (h.toNat * 256 + l.toNat)
    step s = .next (completedSync (if csc = csr then .ok else .checksumInvalid) (some csc) (some csr) s)

/-- R25, R58: a step consumes at most the oldest Rx event, and only while an operation runs. -/
def Obligations.NoReadAhead : Prop :=
  ∀ s t : State, step s = .next t → t.rx = s.rx ∨ (s.busy = true ∧ ∃ ev, s.rx = ev :: t.rx)

/-- R111: once the sync sequence is found, the operation never goes back to hunting, whatever the host does. -/
def Obligations.OneSyncPerOperation : Prop :=
  ∀ s t : State, s.rs = .lenHi ∨ s.rs = .lenLo ∨ s.rs = .body → step s = .next t →
    t.rs ≠ .hunt0 ∧ t.rs ≠ .hunt1

/-- R26, R56: while an operation goes on, its latched request does not change, and neither does the published result. -/
def Obligations.LatchAndResultStableWhileRunning : Prop :=
  ∀ s t : State, s.busy = true → t.busy = true → step s = .next t →
    t.op = s.op ∧ t.E = s.E ∧ t.pol = s.pol ∧ t.code = s.code ∧ t.payload = s.payload ∧ t.n = s.n ∧
      t.vop = s.vop ∧ t.res = s.res

/-- R32, R35, R40: unless reset is asserted, `fbuf` and `flen` change only in a step in which a running SYNC consumes an
event or completes, or in which the block takes a SYNC request, and `cbuf` changes only in a step in which it takes an
ENC request. -/
def Obligations.BuffersHaveOneWriter : Prop :=
  ∀ s t : State, step s = .next t → (∀ rest, s.host ≠ .reset :: rest) →
    ((t.fbuf = s.fbuf ∧ t.flen = s.flen) ∨ (s.busy = true ∧ (t.rx ≠ s.rx ∨ t.busy = false)) ∨
        (s.busy = false ∧ ∃ r e, s.req = some r ∧ t.req = none ∧
          (decode r = .ok (.syncS e) ∨ decode r = .ok (.syncT e)))) ∧
      (t.cbuf = s.cbuf ∨
        (s.busy = false ∧ ∃ r c p, s.req = some r ∧ t.req = none ∧ decode r = .ok (.enc c p)))

/-! ### The host's reads and reset -/

/-- R37, R53, R57: what a host read returns when the block is idle. The block does not change. Buffer bytes and optional
fields are read where they are written. -/
def Obligations.HostReadsReturnTheRegister : Prop :=
  ∀ (s : State) (rest : List HostAct), s.busy = false →
    let reads (g : HostReg) (v : Nat) : Prop :=
      s.host = .read g :: rest → step s = .next { s with host := rest, hostData := some (BitVec.ofNat 16 v) }
    reads .busy 0 ∧ reads .st s.res.st.toBits.toNat ∧ reads .rop s.res.rop.toBits.toNat ∧
      reads .nrx s.res.nrx.toNat ∧ reads .flen s.flen.toNat ∧
      (∀ v, s.res.lenf_r = some v → reads .lenf_r v.toNat) ∧
      (∀ v, s.res.lmatch = some v → reads .lmatch v.toNat) ∧
      (∀ v, s.res.csc = some v → reads .csc v.toNat) ∧
      (∀ v, s.res.csr = some v → reads .csr v.toNat) ∧
      (∀ i b, i < 32 → Memory.read s.fbuf i = some b → reads (.fbuf i) b.toNat) ∧
      ∀ i b, i < 7 → Memory.read s.cbuf i = some b → reads (.cbuf i) b.toNat

/-- R205: while an operation runs, a host read of `busy` returns 1 and a host read of any other register is a host
fault. -/
def Obligations.HostReadWhileBusyFaults : Prop :=
  ∀ (s : State) (g : HostReg) (rest : List HostAct), s.busy = true → s.host = .read g :: rest →
    (g ≠ .busy → step s = .fault (.hostReadBusy g)) ∧
      (g = .busy → step s = .next { s with host := rest, hostData := some 1 })

/-- R207: a host read of UNWRITTEN state is a host fault, and changes nothing. -/
def Obligations.HostReadOfUnwrittenFaults : Prop :=
  ∀ (s : State) (g : HostReg) (rest : List HostAct), s.busy = false → s.host = .read g :: rest →
    ((g = .lenf_r ∧ s.res.lenf_r = none) ∨ (g = .lmatch ∧ s.res.lmatch = none) ∨ (g = .csc ∧ s.res.csc = none) ∨
      (g = .csr ∧ s.res.csr = none) ∨ (∃ i, g = .fbuf i ∧ i < 32 ∧ Memory.read s.fbuf i = none) ∨
      ∃ i, g = .cbuf i ∧ i < 7 ∧ Memory.read s.cbuf i = none) →
    step s = .fault (.hostReadUnwritten g)

/-- R200, R39: reset at any step abandons a running operation, with no result, and puts the block to its reset values.
The Rx stream keeps every event not yet read. (The latch registers, for which R39 gives no value, are left out.) -/
def Obligations.ResetAbandonsTheOperation : Prop :=
  ∀ (s : State) (rest : List HostAct), s.host = .reset :: rest →
    ∃ t, step s = .next t ∧ t.rs = .idle ∧ t.scan = 0 ∧ t.idx = 0 ∧ t.acc = 0 ∧ t.lenf = 0 ∧ t.T = 0 ∧
      t.res = { st := .none, rop := .none, nrx := 0, lenf_r := none, lmatch := none, csc := none, csr := none } ∧
      t.flen = 0 ∧ (∀ i, Memory.read t.fbuf i = none) ∧ (∀ i, Memory.read t.cbuf i = none) ∧
      t.rx = s.rx ∧ t.host = rest

/-- R202: the result state after reset. -/
def Obligations.ResetStateIsNone : Prop :=
  State.reset.busy = false ∧ State.reset.res.st.toBits = 7 ∧ State.reset.res.rop.toBits = 0 ∧
    State.reset.res.nrx = 0 ∧ State.reset.res.lenf_r = none ∧ State.reset.res.lmatch = none ∧
    State.reset.res.csc = none ∧ State.reset.res.csr = none ∧ State.reset.flen = 0 ∧
    (∀ i, Memory.read State.reset.fbuf i = none) ∧ ∀ i, Memory.read State.reset.cbuf i = none

/-! ### Invariants and safety -/

/-- The machine after reset meets the invariant. -/
def Obligations.ResetMeetsTheInvariant : Prop := Inv State.reset

/-- Every step keeps the buffers in canonical form and `vop` at its 32 bytes, from every state that has them so. -/
def Obligations.StepKeepsBuffersCanonical : Prop :=
  ∀ s t : State, BuffersInv s → step s = .next t → BuffersInv t

/-- Every step keeps the invariant of the running machine: the buffers filled exactly as far as `idx` or `flen` says
(R32), the counters within their bounds (R31), `acc` the sum of the stored bytes (R141), and the length registers
agreeing with the frame (R105 to R107). -/
def Obligations.StepKeepsTheRunInvariant : Prop :=
  ∀ s t : State, RunInv s → step s = .next t → RunInv t

/-- Every step keeps the whole invariant: besides, the result record has one of the shapes of R182. -/
def Obligations.StepKeepsTheInvariant : Prop :=
  ∀ s t : State, Inv s → step s = .next t → Inv t

/-- R184, R37: `st` never holds INVALID_STATE. -/
def Obligations.InvalidStateIsNeverReported : Prop :=
  ∀ (k : Nat) (s t : State), Inv s → run k s = .next t → t.res.st ≠ .invalidState

/-- In every state that meets the invariant, the block itself never stops: only a host read can (R186, R205, R207). -/
def Obligations.OnlyHostReadsStop : Prop :=
  ∀ s : State, RunInv s →
    (∀ r, step s ≠ .refused r) ∧ ∀ f, step s = .fault f → ∃ g rest, s.host = .read g :: rest

/-! ### What a SYNC guarantees -/

/-- R112: a SYNC that completes has made at most `3E` reads. -/
def Obligations.SyncReadsAreBounded : Prop :=
  ∀ s t : State, RunInv s → s.busy = true → s.host = [] → step s = .next t → t.busy = false →
    t.res.rop = .sync ∧ t.res.nrx.toNat ≤ 3 * s.E.toNat

/-- R112, R190: if the Transport answers every read, a running SYNC completes. -/
def Obligations.SyncCompletesWhenAnswered : Prop :=
  ∀ s : State, RunInv s → s.busy = true → s.host = [] → 3 * s.E.toNat ≤ s.pnrx.toNat + s.rx.length →
    ∃ k t, k ≤ 3 * s.E.toNat + 1 ∧ run k s = .next t ∧ t.busy = false ∧ t.res.rop = .sync ∧
      ∃ used, s.rx = used ++ t.rx ∧ used.length + s.pnrx.toNat = t.res.nrx.toNat

/-- R190: a read that is never answered holds the block busy for good. -/
def Obligations.UnansweredReadHoldsTheBlock : Prop :=
  ∀ (k : Nat) (s : State), atRead s → s.host = [] → s.rx = [] → run k s = .next s

/-- R118: what an OK result guarantees. -/
def Obligations.OkMeansAVerifiedFrame : Prop :=
  ∀ s t : State, RunInv s → s.busy = true → s.host = [] → step s = .next t → t.busy = false → t.res.st = .ok →
    4 ≤ t.flen.toNat ∧ t.flen.toNat = s.T.toNat ∧
      ∃ (h l : Byte) (frame : List Byte),
        frame.length = t.flen.toNat ∧ (∀ i, i < frame.length → Memory.read t.fbuf i = frame[i]?) ∧
        frame.take 4 = [0x42, 0x4D, h, l] ∧ t.res.lenf_r = some (be16 h l) ∧
        sum16 (frame.take (frame.length - 2)) =
          be16 (frame.getD (frame.length - 2) 0) (frame.getD (frame.length - 1) 0) ∧
        (s.pol = .strict →
          t.flen = s.E ∧ (be16 h l).toNat + 4 = s.E.toNat ∧ t.res.lmatch = some true)

/-- R120 (decision D27): an OK result of a Strict read with E = 32 may always be decoded. -/
def Obligations.StrictOkIsEligible : Prop :=
  ∀ s t : State, RunInv s → s.busy = true → s.host = [] → s.pol = .strict → s.E = 32 → step s = .next t →
    t.busy = false → t.res.st = .ok → readingEligible t

/-- R107, R115: a Tolerant SYNC never reports LENGTH_MISMATCH. -/
def Obligations.TolerantNeverMismatches : Prop :=
  ∀ s t : State, s.busy = true → s.host = [] → s.pol = .tolerant → step s = .next t → t.busy = false →
    t.res.st ≠ .lengthMismatch

/-- R122: under Tolerant, a frame whose length field is 0 or 1 never verifies. -/
def Obligations.TinyLengthsNeverVerify : Prop :=
  ∀ s t : State, RunInv s → s.rs = .body → s.host = [] → s.lenf.toNat < 2 → step s = .next t → t.busy = false →
    t.res.st ≠ .ok

/-- R123: the step form and the function form of SYNC define the same relation, for each of the four receive
instructions. The machine accepts the request, and reaches a completion with exactly the record, the frame and the
remaining events that the function form gives; where the function form gives none, because the stream ends, the block
stays busy for good. -/
def Obligations.StepFormIsStreamForm : Prop :=
  ∀ (s : State) (i : Instr) (pol : Policy) (e : Byte),
    (i = .syncS e ∧ pol = .strict) ∨ (i = .syncT e ∧ pol = .tolerant) ∨
      (i = .readData ∧ pol = .strict ∧ e = 32) ∨ (i = .readStatus ∧ pol = .strict ∧ e = 8) →
    6 ≤ e.toNat → e.toNat ≤ 32 → s.rs = .idle → s.host = [] →
    ∃ s0, exec i s = .next s0 ∧
      (∀ o, syncStream pol e.toNat s.rx = some o →
        ∃ k t, run k s0 = .next t ∧ t.busy = false ∧ t.res = o.result ∧ t.rx = o.left ∧
          t.fbuf = (List.range o.frame.length).zip o.frame ∧ t.flen.toNat = o.frame.length ∧
          t.req = s.req ∧ t.cbuf = s.cbuf) ∧
      (syncStream pol e.toNat s.rx = none → ∀ k, ∃ t, run k s0 = .next t ∧ t.busy = true)

/-- R119: garbage recovery. With garbage `g` that holds no sync sequence before a valid frame `f`, SYNC.S returns OK
with the frame in `fbuf` when `|g| ≤ 2E`; for longer garbage it returns TIMEOUT, after `2E+1` reads, or `2E+2` when the
(2E+1)-th garbage byte is `0x42`. -/
def Obligations.GarbageRecovery : Prop :=
  ∀ (s : State) (e : Byte) (g f : List Byte) (rest : List RxEvent), 6 ≤ e.toNat → e.toNat ≤ 32 → s.host = [] →
    s.rs = .idle → noSyncPair g → validFrame f → f.length = e.toNat →
    s.rx = g.map .byte ++ f.map .byte ++ rest →
    ∃ s0 k t, exec (.syncS e) s = .next s0 ∧ run k s0 = .next t ∧ t.busy = false ∧ t.res.rop = .sync ∧
      (g.length ≤ 2 * e.toNat →
        t.res.st = .ok ∧ t.flen.toNat = f.length ∧ (∀ i, i < f.length → Memory.read t.fbuf i = f[i]?) ∧
          t.rx = rest) ∧
      (2 * e.toNat < g.length →
        t.res.st = .timeout ∧ t.flen = 0 ∧
          t.res.nrx.toNat = (if g[2 * e.toNat]? = some 0x42 then 2 * e.toNat + 2 else 2 * e.toNat + 1) ∧
          t.rx = s.rx.drop t.res.nrx.toNat)

/-- R38: an operation's result depends only on its request and on the events it reads. Two idle machines with the same
request and the same Rx stream, whatever else they hold, run in step; when the operation completes they publish the
same record and have consumed the same events; after a SYNC they hold the same frame, after an ENC the same command. -/
def Obligations.OperationsDoNotDependOnHistory : Prop :=
  ∀ (k : Nat) (s1 s2 t1 : State) (r : Request), s1.rs = .idle → s2.rs = .idle → s1.host = [] → s2.host = [] →
    s1.req = some r → s2.req = some r → s1.rx = s2.rx → run (k + 1) s1 = .next t1 →
    ∃ t2, run (k + 1) s2 = .next t2 ∧ t1.rs = t2.rs ∧ t1.rx = t2.rx ∧
      (t1.busy = false →
        t1.res = t2.res ∧ (t1.res.rop = .sync → t1.fbuf = t2.fbuf ∧ t1.flen = t2.flen) ∧
          (t1.res.rop = .enc → ∀ i, i < 7 → Memory.read t1.cbuf i = Memory.read t2.cbuf i))

/-! ### The checksum -/

/-- R141: when verification runs, `acc` less the two stored checksum bytes is the checksum that R140 gives. -/
def Obligations.AccumulatorGivesTheChecksum : Prop :=
  ∀ (s : State) (frame : List Byte), RunInv s → s.rs = .body → s.idx.toNat = s.T.toNat →
    Memory.readFrom s.fbuf 0 s.T.toNat = some frame →
    computed frame =
      s.acc - (frame.getD (frame.length - 2) 0).setWidth 16 - (frame.getD (frame.length - 1) 0).setWidth 16

/-- R33: in `BODY` the accumulator, read without the stored checksum, is the sum of the frame bytes received so far but
those at `T-2` and `T-1`; before `BODY` it is the sum of all of them. The checksum that verification publishes is its
value. -/
def Obligations.AccumulatorLeavesOutTheStoredChecksum : Prop :=
  ∀ s : State, RunInv s → s.busy = true →
    (s.rs ≠ .body → s.coveredSum = sum16 (bytesOf s.fbuf)) ∧
      (s.rs = .body → s.coveredSum = sum16 ((bytesOf s.fbuf).take (s.T.toNat - 2))) ∧
      ∀ t c, s.host = [] → step s = .next t → t.busy = false → t.res.csc = some c → c = s.coveredSum

/-- R142: the checksum does not depend on the order of the bytes, and a streaming accumulator gives the same value. -/
def Obligations.ChecksumIgnoresOrder : Prop :=
  (∀ a b : List Byte, a.Perm b → sum16 a = sum16 b) ∧
    ∀ a : List Byte, a.foldl (fun (acc : Half) b => acc + b.setWidth 16) 0 = sum16 a

/-- R143: the verify predicate compares high byte with high byte and low byte with low byte. -/
def Obligations.VerdictComparesBytewise : Prop :=
  ∀ (covered : List Byte) (h l : Byte),
    computed (covered ++ [h, l]) = stored (covered ++ [h, l]) ↔
      (computed (covered ++ [h, l])).extractLsb' 8 8 = h ∧ (computed (covered ++ [h, l])).extractLsb' 0 8 = l

/-- R146: a single corrupted byte, at any index, is always detected. -/
def Obligations.SingleByteCorruptionIsDetected : Prop :=
  ∀ (s t u : State) (n : Byte) (ops : List Byte) (i : Nat) (b : Byte), s.rs = .idle → 2 ≤ n.toNat → n.toNat ≤ 32 →
    ops.length = n.toNat → i < ops.length → ops[i]? ≠ some b →
    exec (.verify n ops) s = .next t → t.res.st = .ok →
    exec (.verify n (ops.set i b)) s = .next u → u.res.st = .checksumInvalid

/-- R147: the blind spots. A valid list still verifies when (a) one covered byte is raised and another lowered by the
same amount, (b) its covered bytes are reordered, or (c) the covered bytes change by a total that the stored checksum
changes by as well. -/
def Obligations.PairedCorruptionsAreNotDetected : Prop :=
  ∀ (covered : List Byte) (h l : Byte), computed (covered ++ [h, l]) = stored (covered ++ [h, l]) →
    (∀ (i j k : Nat) (x y : Byte), i ≠ j → covered[i]? = some x → covered[j]? = some y → x.toNat + k ≤ 255 →
        k ≤ y.toNat →
        let c := (covered.set i (BitVec.ofNat 8 (x.toNat + k))).set j (BitVec.ofNat 8 (y.toNat - k))
        computed (c ++ [h, l]) = stored (c ++ [h, l])) ∧
      (∀ c : List Byte, c.Perm covered → computed (c ++ [h, l]) = stored (c ++ [h, l])) ∧
      ∀ (c : List Byte) (h' l' : Byte) (d : Half), sum16 c = sum16 covered + d → be16 h' l' = be16 h l + d →
        computed (c ++ [h', l']) = stored (c ++ [h', l'])

/-- R148: the sync bytes add 0x8F to the checksum of every frame that starts with them. -/
def Obligations.SyncBytesContribution : Prop :=
  ∀ (covered : List Byte) (h l : Byte),
    computed (0x42 :: 0x4D :: (covered ++ [h, l])) =
      BitVec.ofNat 16 (0x8F + (covered.map BitVec.toNat).sum)

/-- R144: in a buffer of at most 32 bytes the reduction mod 65536 never changes a checksum. -/
def Obligations.SumsStayBelowTheModulus : Prop :=
  ∀ (covered : List Byte) (h l : Byte), covered.length + 2 ≤ 32 →
    (covered.map BitVec.toNat).sum ≤ 7650 ∧
      (computed (covered ++ [h, l])).toNat = (covered.map BitVec.toNat).sum

/-- R161: the range of a command frame's checksum, with its ends reached, and no wrap in it. -/
def Obligations.CommandChecksumRange : Prop :=
  (∀ (s t : State) (code : Byte) (payload : Half), s.rs = .idle → exec (.enc code payload) s = .next t →
      ∃ c h, t.res.csc = some c ∧ 0x008F ≤ c.toNat ∧ c.toNat ≤ 0x038C ∧
        c.toNat = 0x8F + code.toNat + payload.toNat / 256 + payload.toNat % 256 ∧
        Memory.read t.cbuf 5 = some h ∧ h.toNat ≤ 3) ∧
    ∀ s : State, s.rs = .idle →
      (∃ t, exec (.enc 0 0) s = .next t ∧ t.res.csc = some 0x008F) ∧
        ∃ t, exec (.enc 0xFF 0xFFFF) s = .next t ∧ t.res.csc = some 0x038C

/-- R162: round trip. After ENC, a VERIFY 7 on the seven bytes of `cbuf` returns OK with the same checksum. -/
def Obligations.EncThenVerifyIsOk : Prop :=
  ∀ (s : State) (code : Byte) (payload : Half), s.rs = .idle →
    ∃ t frame u, exec (.enc code payload) s = .next t ∧ Memory.readFrom t.cbuf 0 7 = some frame ∧
      exec (.verify 7 frame) t = .next u ∧ u.res.st = .ok ∧ u.res.csc = t.res.csc ∧ u.res.csr = t.res.csc
end

