-- ==== Sys2Proof/Laws/Buffer.lean ====
section
/-! SUPPORT. The byte buffers: read after write, the canonical form, and buffers filled from index 0 on. -/

namespace Sys2Proof.Machine

@[simp] theorem read_nil (a : Nat) : Memory.read [] a = none := rfl

theorem read_write_same (m : Memory) (a : Nat) (b : Byte) : Memory.read (Memory.write m a b) a = some b := by
  induction m with
  | nil => simp [Memory.write, Memory.read]
  | cons c rest ih =>
    obtain ⟨x, c⟩ := c
    unfold Memory.write
    split
    · simp [Memory.read]
    · split
      · simp [Memory.read]
      · rename_i h
        simpa [Memory.read, Ne.symm h] using ih

theorem read_write_other (m : Memory) {a a' : Nat} (b : Byte) (h : a' ≠ a) :
    Memory.read (Memory.write m a b) a' = Memory.read m a' := by
  induction m with
  | nil => simp [Memory.write, Memory.read, Ne.symm h]
  | cons c rest ih =>
    obtain ⟨x, c⟩ := c
    unfold Memory.write
    split
    · simp [Memory.read, Ne.symm h]
    · split
      · rename_i hx
        subst hx
        simp [Memory.read, Ne.symm h]
      · simp [Memory.read, ih]

theorem mem_write {m : Memory} {a : Nat} {b : Byte} {c : Host.Cell} (h : c ∈ Memory.write m a b) :
    c = (a, b) ∨ c ∈ m := by
  induction m with
  | nil => simpa [Memory.write] using h
  | cons d rest ih =>
    obtain ⟨x, d⟩ := d
    unfold Memory.write at h
    split at h
    · simpa using h
    · split at h
      · rcases List.mem_cons.mp h with h | h
        · exact .inl h
        · exact .inr (List.mem_cons_of_mem _ h)
      · rcases List.mem_cons.mp h with h | h
        · exact .inr (h ▸ List.mem_cons_self)
        · exact (ih h).imp id (List.mem_cons_of_mem _)

/-- A write inside the buffer keeps the canonical form. -/
theorem wf_write {size : Nat} {m : Memory} (h : Memory.wf size m) {a : Nat} (b : Byte) (ha : a < size) :
    Memory.wf size (Memory.write m a b) := by
  refine ⟨?_, fun c hc => ?_⟩
  · have hs := h.1
    clear h
    induction m with
    | nil => simp [Memory.write]
    | cons d rest ih =>
      obtain ⟨x, d⟩ := d
      have hs' := List.pairwise_cons.mp hs
      unfold Memory.write
      split
      · rename_i hax
        refine List.pairwise_cons.mpr ⟨fun c hc => ?_, hs⟩
        rcases List.mem_cons.mp hc with rfl | hc
        · exact hax
        · exact Nat.lt_trans hax (hs'.1 c hc)
      · split
        · rename_i hax
          subst hax
          exact List.pairwise_cons.mpr hs'
        · rename_i h1 h2
          refine List.pairwise_cons.mpr ⟨fun c hc => ?_, ih hs'.2⟩
          rcases mem_write hc with rfl | hc
          · show x < a
            omega
          · exact hs'.1 c hc
  · rcases mem_write hc with rfl | hc
    · exact ha
    · exact h.2 c hc

@[simp] theorem wf_cleared (size : Nat) : Memory.wf size Memory.cleared := by
  simp [Memory.wf, Memory.cleared]

/-- A run of writes inside the buffer keeps the canonical form. -/
theorem wf_writeAll {size : Nat} (bs : List Byte) {m : Memory} (h : Memory.wf size m) (a : Nat)
    (ha : a + bs.length ≤ size) : Memory.wf size (Memory.writeAll m a bs) := by
  induction bs generalizing m a with
  | nil => exact h
  | cons b rest ih =>
    simp only [List.length_cons] at ha
    exact ih (wf_write h b (by omega)) (a + 1) (by omega)

/-- What a run of writes leaves at an index: the byte written there, or what stood there before. -/
theorem read_writeAll (bs : List Byte) (m : Memory) (a k : Nat) :
    Memory.read (Memory.writeAll m a bs) k =
      if a ≤ k ∧ k < a + bs.length then bs[k - a]? else Memory.read m k := by
  induction bs generalizing m a with
  | nil =>
    simp [Memory.writeAll]
  | cons b rest ih =>
    rw [Memory.writeAll, ih]
    by_cases hk : k = a
    · subst hk
      simp [read_write_same]
    · rw [read_write_other _ _ hk]
      by_cases h : a + 1 ≤ k ∧ k < a + 1 + rest.length
      · have h' : a ≤ k ∧ k < a + (b :: rest).length := by simp only [List.length_cons]; omega
        obtain ⟨j, hj⟩ : ∃ j, k - a = j + 1 := ⟨k - a - 1, by omega⟩
        rw [if_pos h, if_pos h', hj, show k - (a + 1) = j by omega, List.getElem?_cons_succ]
      · have h' : ¬ (a ≤ k ∧ k < a + (b :: rest).length) := by simp only [List.length_cons]; omega
        rw [if_neg h, if_neg h']

/-- The next byte of a buffer filled up to `k` goes to its end. -/
theorem write_filled {m : Memory} {k : Nat} (h : filledTo m k) (b : Byte) :
    Memory.write m k b = m ++ [(k, b)] := by
  have hlt : ∀ c ∈ m, c.1 < k := fun c hc => by
    have := List.mem_map_of_mem (f := fun c : Host.Cell => c.1) hc
    rw [h] at this
    simpa using this
  clear h
  induction m with
  | nil => rfl
  | cons d rest ih =>
    obtain ⟨x, d⟩ := d
    have hx : x < k := hlt (x, d) List.mem_cons_self
    simp [Memory.write, show ¬ k < x by omega, show k ≠ x by omega,
      ih fun c hc => hlt c (List.mem_cons_of_mem _ hc)]

theorem filledTo_write {m : Memory} {k : Nat} (h : filledTo m k) (b : Byte) :
    filledTo (Memory.write m k b) (k + 1) := by
  rw [write_filled h, filledTo, List.map_append, h, List.range_succ]
  rfl

theorem bytesOf_write {m : Memory} {k : Nat} (h : filledTo m k) (b : Byte) :
    bytesOf (Memory.write m k b) = bytesOf m ++ [b] := by
  rw [write_filled h, bytesOf, bytesOf, List.map_append]
  rfl

theorem length_bytesOf {m : Memory} {k : Nat} (h : filledTo m k) : (bytesOf m).length = k := by
  simpa [bytesOf] using congrArg List.length h

/-- A buffer filled up to `k` reads back its bytes in order. -/
theorem read_filled {m : Memory} {k : Nat} (h : filledTo m k) (a : Nat) : Memory.read m a = (bytesOf m)[a]? := by
  induction k generalizing m with
  | zero =>
    have : m = [] := by simpa [filledTo] using h
    simp [this, bytesOf]
  | succ k ih =>
    obtain ⟨m', c, rfl⟩ : ∃ m' c, m = m' ++ [c] := by
      rcases List.eq_nil_or_concat m with rfl | ⟨m', c, hm⟩
      · simp [filledTo, List.range_succ] at h
      · exact ⟨m', c, by simpa using hm⟩
    rw [filledTo, List.map_append, List.range_succ] at h
    obtain ⟨h1, h2⟩ := List.append_inj' h rfl
    obtain ⟨x, b⟩ := c
    have hx : x = k := by simpa using h2
    subst hx
    rw [← write_filled h1]
    by_cases ha : a = x
    · subst ha
      rw [read_write_same, bytesOf_write h1, List.getElem?_append_right (by rw [length_bytesOf h1]),
        length_bytesOf h1]
      simp
    · rw [read_write_other _ _ ha, ih h1, bytesOf_write h1]
      rcases Nat.lt_or_ge a (bytesOf m').length with hl | hl
      · rw [List.getElem?_append_left hl]
      · rw [List.getElem?_append_right hl, List.getElem?_eq_none hl, length_bytesOf h1]
        rw [length_bytesOf h1] at hl
        rw [List.getElem?_eq_none]
        simp
        omega

/-- Reading `j` bytes from index `a` of a filled buffer. -/
theorem readFrom_filled {m : Memory} {k : Nat} (h : filledTo m k) (j a : Nat) (hj : a + j ≤ k) :
    Memory.readFrom m a j = some (((bytesOf m).drop a).take j) := by
  induction j generalizing a with
  | zero => simp [Memory.readFrom]
  | succ j ih =>
    have ha : a < (bytesOf m).length := by rw [length_bytesOf h]; omega
    rw [Memory.readFrom, read_filled h, List.getElem?_eq_getElem ha, ih (a + 1) (by omega),
      List.drop_eq_getElem_cons ha, List.take_succ_cons]

/-- Reading the whole of a filled buffer. -/
theorem readFrom_whole {m : Memory} {k : Nat} (h : filledTo m k) : Memory.readFrom m 0 k = some (bytesOf m) := by
  rw [readFrom_filled h k 0 (by omega), List.drop_zero, ← length_bytesOf h, List.take_length]

/-- The summand of an entry of a filled buffer. -/
theorem summand_filled {m : Memory} {k : Nat} (h : filledTo m k) (i : Nat) :
    Memory.summand m i = ((bytesOf m)[i]?.map (·.setWidth 16)).getD 0 := by
  rw [Memory.summand, read_filled h]

/-- Before `BODY` both views of the accumulator agree (R33, R141). -/
theorem coveredSum_before {s : State} (h : s.rs ≠ .body) : s.coveredSum = s.acc := by
  rw [State.coveredSum, if_neg h]

/-- In `BODY` the view of R33 takes the stored checksum off (R141). -/
theorem coveredSum_body {s : State} (h : s.rs = .body) :
    s.coveredSum = s.acc - Memory.summand s.fbuf (s.T.toNat - 2) - Memory.summand s.fbuf (s.T.toNat - 1) := by
  rw [State.coveredSum, if_pos h]

end Sys2Proof.Machine
end

