-- ==== Sys2Proof/Laws/Encoding.lean ====
section
/-! SUPPORT. The fields of a request word: reading back what `requestWord` put there, and the word as the sum of its
fields (R70). -/

namespace Sys2Proof

theorem toNat_requestWord (a : Half) (b : Byte) (m o : BitVec 4) :
    (requestWord a b m o).toNat = a.toNat * 65536 + b.toNat * 256 + m.toNat * 16 + o.toNat := by
  have hb := b.isLt
  have hm := m.isLt
  have ho := o.isLt
  simp only [requestWord, BitVec.toNat_append]
  rw [← Nat.shiftLeft_add_eq_or_of_lt hb, ← Nat.shiftLeft_add_eq_or_of_lt hm, ← Nat.shiftLeft_add_eq_or_of_lt ho]
  simp only [Nat.shiftLeft_eq]
  omega

theorem toNat_opBits (r : Request) : r.opBits.toNat = r.word.toNat % 16 := by
  simp [Request.opBits, BitVec.extractLsb'_toNat]

theorem toNat_midBits (r : Request) : r.midBits.toNat = r.word.toNat / 16 % 16 := by
  simp [Request.midBits, BitVec.extractLsb'_toNat, Nat.shiftRight_eq_div_pow]

theorem toNat_arg8 (r : Request) : r.arg8.toNat = r.word.toNat / 256 % 256 := by
  simp [Request.arg8, BitVec.extractLsb'_toNat, Nat.shiftRight_eq_div_pow]

theorem toNat_arg16 (r : Request) : r.arg16.toNat = r.word.toNat / 65536 := by
  have := r.word.isLt
  simp [Request.arg16, BitVec.extractLsb'_toNat, Nat.shiftRight_eq_div_pow]
  omega

@[simp] theorem opBits_requestWord (a : Half) (b : Byte) (m o : BitVec 4) (ops : List Byte) :
    Request.opBits ⟨requestWord a b m o, ops⟩ = o := by
  apply BitVec.eq_of_toNat_eq
  have := m.isLt
  have := o.isLt
  rw [toNat_opBits, toNat_requestWord]
  omega

@[simp] theorem midBits_requestWord (a : Half) (b : Byte) (m o : BitVec 4) (ops : List Byte) :
    Request.midBits ⟨requestWord a b m o, ops⟩ = m := by
  apply BitVec.eq_of_toNat_eq
  have := m.isLt
  have := o.isLt
  rw [toNat_midBits, toNat_requestWord]
  omega

@[simp] theorem arg8_requestWord (a : Half) (b : Byte) (m o : BitVec 4) (ops : List Byte) :
    Request.arg8 ⟨requestWord a b m o, ops⟩ = b := by
  apply BitVec.eq_of_toNat_eq
  have := b.isLt
  have := m.isLt
  have := o.isLt
  rw [toNat_arg8, toNat_requestWord]
  omega

@[simp] theorem arg16_requestWord (a : Half) (b : Byte) (m o : BitVec 4) (ops : List Byte) :
    Request.arg16 ⟨requestWord a b m o, ops⟩ = a := by
  apply BitVec.eq_of_toNat_eq
  have := b.isLt
  have := m.isLt
  have := o.isLt
  rw [toNat_arg16, toNat_requestWord]
  omega

/-- A request word is made of its fields. -/
theorem requestWord_fields (r : Request) : requestWord r.arg16 r.arg8 r.midBits r.opBits = r.word := by
  apply BitVec.eq_of_toNat_eq
  have := r.word.isLt
  rw [toNat_requestWord, toNat_arg16, toNat_arg8, toNat_midBits, toNat_opBits]
  omega

/-- A mask made of fields acts on each field. -/
theorem requestWord_and (a a' : Half) (b b' : Byte) (m m' o o' : BitVec 4) :
    requestWord a b m o &&& requestWord a' b' m' o' = requestWord (a &&& a') (b &&& b') (m &&& m') (o &&& o') := by
  have h : (a ++ b ++ m ++ o) &&& (a' ++ b' ++ m' ++ o') = (a &&& a') ++ (b &&& b') ++ (m &&& m') ++ (o &&& o') := by
    simp only [BitVec.and_append]
  exact h

/-- The mask of SYNC and VERIFY keeps every field but ARG8 (R73, R75). -/
theorem requestWord_and_mask (a : Half) (b : Byte) (m o : BitVec 4) :
    requestWord a b m o &&& 0xFFFF00FF = requestWord a 0 m o := by
  have hmask : (0xFFFF00FF : Word) = requestWord (BitVec.allOnes 16) 0 (BitVec.allOnes 4) (BitVec.allOnes 4) := by
    decide
  rw [hmask, requestWord_and, BitVec.and_allOnes, BitVec.and_allOnes, BitVec.and_allOnes]
  simp

/-- The mask of ENC keeps OP and `w[7:4]` (R74). -/
theorem requestWord_and_low (a : Half) (b : Byte) (m o : BitVec 4) :
    requestWord a b m o &&& 0x000000FF = requestWord 0 0 m o := by
  have hmask : (0x000000FF : Word) = requestWord 0 0 (BitVec.allOnes 4) (BitVec.allOnes 4) := by decide
  rw [hmask, requestWord_and, BitVec.and_allOnes, BitVec.and_allOnes]
  simp

end Sys2Proof
end

