-- ==== Sys2Proof/Laws/State.lean ====
section
/-! SUPPORT. One lemma per field of State per named update of it, each true by definition, so that no later proof unfolds
a record update. -/

namespace Sys2Proof.Machine

/-! ### finish -/

@[simp] theorem finish_op (r : Result) (s : State) : (finish r s).op = s.op := rfl
@[simp] theorem finish_E (r : Result) (s : State) : (finish r s).E = s.E := rfl
@[simp] theorem finish_pol (r : Result) (s : State) : (finish r s).pol = s.pol := rfl
@[simp] theorem finish_code (r : Result) (s : State) : (finish r s).code = s.code := rfl
@[simp] theorem finish_payload (r : Result) (s : State) : (finish r s).payload = s.payload := rfl
@[simp] theorem finish_n (r : Result) (s : State) : (finish r s).n = s.n := rfl
@[simp] theorem finish_vop (r : Result) (s : State) : (finish r s).vop = s.vop := rfl
@[simp] theorem finish_rs (r : Result) (s : State) : (finish r s).rs = .idle := rfl
@[simp] theorem finish_scan (r : Result) (s : State) : (finish r s).scan = s.scan := rfl
@[simp] theorem finish_idx (r : Result) (s : State) : (finish r s).idx = s.idx := rfl
@[simp] theorem finish_acc (r : Result) (s : State) : (finish r s).acc = s.acc := rfl
@[simp] theorem finish_lenf (r : Result) (s : State) : (finish r s).lenf = s.lenf := rfl
@[simp] theorem finish_T (r : Result) (s : State) : (finish r s).T = s.T := rfl
@[simp] theorem finish_pnrx (r : Result) (s : State) : (finish r s).pnrx = s.pnrx := rfl
@[simp] theorem finish_plenf (r : Result) (s : State) : (finish r s).plenf = s.plenf := rfl
@[simp] theorem finish_pmatch (r : Result) (s : State) : (finish r s).pmatch = s.pmatch := rfl
@[simp] theorem finish_fbuf (r : Result) (s : State) : (finish r s).fbuf = s.fbuf := rfl
@[simp] theorem finish_flen (r : Result) (s : State) : (finish r s).flen = s.flen := rfl
@[simp] theorem finish_cbuf (r : Result) (s : State) : (finish r s).cbuf = s.cbuf := rfl
@[simp] theorem finish_res (r : Result) (s : State) : (finish r s).res = r := rfl
@[simp] theorem finish_rx (r : Result) (s : State) : (finish r s).rx = s.rx := rfl
@[simp] theorem finish_req (r : Result) (s : State) : (finish r s).req = s.req := rfl
@[simp] theorem finish_host (r : Result) (s : State) : (finish r s).host = s.host := rfl
@[simp] theorem finish_hostData (r : Result) (s : State) : (finish r s).hostData = s.hostData := rfl

/-! ### finishSync -/

@[simp] theorem finishSync_op (st : Status) (c : Option (Half × Half)) (s : State) :
    (finishSync st c s).op =
    s.op := rfl
@[simp] theorem finishSync_E (st : Status) (c : Option (Half × Half)) (s : State) : (finishSync st c s).E = s.E := rfl
@[simp] theorem finishSync_pol (st : Status) (c : Option (Half × Half)) (s : State) :
    (finishSync st c s).pol =
    s.pol := rfl
@[simp] theorem finishSync_code (st : Status) (c : Option (Half × Half)) (s : State) :
    (finishSync st c s).code =
    s.code := rfl
@[simp] theorem finishSync_payload (st : Status) (c : Option (Half × Half)) (s : State) :
    (finishSync st c s).payload =
    s.payload := rfl
@[simp] theorem finishSync_n (st : Status) (c : Option (Half × Half)) (s : State) : (finishSync st c s).n = s.n := rfl
@[simp] theorem finishSync_vop (st : Status) (c : Option (Half × Half)) (s : State) :
    (finishSync st c s).vop =
    s.vop := rfl
@[simp] theorem finishSync_rs (st : Status) (c : Option (Half × Half)) (s : State) :
    (finishSync st c s).rs =
    .idle := rfl
@[simp] theorem finishSync_scan (st : Status) (c : Option (Half × Half)) (s : State) :
    (finishSync st c s).scan =
    s.scan := rfl
@[simp] theorem finishSync_idx (st : Status) (c : Option (Half × Half)) (s : State) :
    (finishSync st c s).idx =
    s.idx := rfl
@[simp] theorem finishSync_acc (st : Status) (c : Option (Half × Half)) (s : State) :
    (finishSync st c s).acc =
    s.acc := rfl
@[simp] theorem finishSync_lenf (st : Status) (c : Option (Half × Half)) (s : State) :
    (finishSync st c s).lenf =
    s.lenf := rfl
@[simp] theorem finishSync_T (st : Status) (c : Option (Half × Half)) (s : State) : (finishSync st c s).T = s.T := rfl
@[simp] theorem finishSync_pnrx (st : Status) (c : Option (Half × Half)) (s : State) :
    (finishSync st c s).pnrx =
    s.pnrx := rfl
@[simp] theorem finishSync_plenf (st : Status) (c : Option (Half × Half)) (s : State) :
    (finishSync st c s).plenf =
    s.plenf := rfl
@[simp] theorem finishSync_pmatch (st : Status) (c : Option (Half × Half)) (s : State) :
    (finishSync st c s).pmatch =
    s.pmatch := rfl
@[simp] theorem finishSync_fbuf (st : Status) (c : Option (Half × Half)) (s : State) :
    (finishSync st c s).fbuf =
    s.fbuf := rfl
@[simp] theorem finishSync_flen (st : Status) (c : Option (Half × Half)) (s : State) :
    (finishSync st c s).flen =
    s.idx := rfl
@[simp] theorem finishSync_cbuf (st : Status) (c : Option (Half × Half)) (s : State) :
    (finishSync st c s).cbuf =
    s.cbuf := rfl
@[simp] theorem finishSync_res (st : Status) (c : Option (Half × Half)) (s : State) :
    (finishSync st c s).res =
    { st := st, rop := .sync, nrx := s.pnrx, lenf_r := s.plenf, lmatch := s.pmatch,
      csc := c.map (·.1), csr := c.map (·.2) } := rfl
@[simp] theorem finishSync_rx (st : Status) (c : Option (Half × Half)) (s : State) :
    (finishSync st c s).rx =
    s.rx := rfl
@[simp] theorem finishSync_req (st : Status) (c : Option (Half × Half)) (s : State) :
    (finishSync st c s).req =
    s.req := rfl
@[simp] theorem finishSync_host (st : Status) (c : Option (Half × Half)) (s : State) :
    (finishSync st c s).host =
    s.host := rfl
@[simp] theorem finishSync_hostData (st : Status) (c : Option (Half × Half)) (s : State) :
    (finishSync st c s).hostData =
    s.hostData := rfl

/-! ### refuseRequest -/

@[simp] theorem refuseRequest_op (s : State) : (refuseRequest s).op = s.op := rfl
@[simp] theorem refuseRequest_E (s : State) : (refuseRequest s).E = s.E := rfl
@[simp] theorem refuseRequest_pol (s : State) : (refuseRequest s).pol = s.pol := rfl
@[simp] theorem refuseRequest_code (s : State) : (refuseRequest s).code = s.code := rfl
@[simp] theorem refuseRequest_payload (s : State) : (refuseRequest s).payload = s.payload := rfl
@[simp] theorem refuseRequest_n (s : State) : (refuseRequest s).n = s.n := rfl
@[simp] theorem refuseRequest_vop (s : State) : (refuseRequest s).vop = s.vop := rfl
@[simp] theorem refuseRequest_rs (s : State) : (refuseRequest s).rs = .idle := rfl
@[simp] theorem refuseRequest_scan (s : State) : (refuseRequest s).scan = s.scan := rfl
@[simp] theorem refuseRequest_idx (s : State) : (refuseRequest s).idx = s.idx := rfl
@[simp] theorem refuseRequest_acc (s : State) : (refuseRequest s).acc = s.acc := rfl
@[simp] theorem refuseRequest_lenf (s : State) : (refuseRequest s).lenf = s.lenf := rfl
@[simp] theorem refuseRequest_T (s : State) : (refuseRequest s).T = s.T := rfl
@[simp] theorem refuseRequest_pnrx (s : State) : (refuseRequest s).pnrx = s.pnrx := rfl
@[simp] theorem refuseRequest_plenf (s : State) : (refuseRequest s).plenf = s.plenf := rfl
@[simp] theorem refuseRequest_pmatch (s : State) : (refuseRequest s).pmatch = s.pmatch := rfl
@[simp] theorem refuseRequest_fbuf (s : State) : (refuseRequest s).fbuf = s.fbuf := rfl
@[simp] theorem refuseRequest_flen (s : State) : (refuseRequest s).flen = s.flen := rfl
@[simp] theorem refuseRequest_cbuf (s : State) : (refuseRequest s).cbuf = s.cbuf := rfl
@[simp] theorem refuseRequest_res (s : State) : (refuseRequest s).res = Result.blank .illegalRequest .none 0 := rfl
@[simp] theorem refuseRequest_rx (s : State) : (refuseRequest s).rx = s.rx := rfl
@[simp] theorem refuseRequest_req (s : State) : (refuseRequest s).req = s.req := rfl
@[simp] theorem refuseRequest_host (s : State) : (refuseRequest s).host = s.host := rfl
@[simp] theorem refuseRequest_hostData (s : State) : (refuseRequest s).hostData = s.hostData := rfl

/-! ### startSync -/

@[simp] theorem startSync_op (p : Policy) (e : Byte) (s : State) : (startSync p e s).op = .sync := rfl
@[simp] theorem startSync_E (p : Policy) (e : Byte) (s : State) : (startSync p e s).E = e.setWidth 6 := rfl
@[simp] theorem startSync_pol (p : Policy) (e : Byte) (s : State) : (startSync p e s).pol = p := rfl
@[simp] theorem startSync_code (p : Policy) (e : Byte) (s : State) : (startSync p e s).code = s.code := rfl
@[simp] theorem startSync_payload (p : Policy) (e : Byte) (s : State) : (startSync p e s).payload = s.payload := rfl
@[simp] theorem startSync_n (p : Policy) (e : Byte) (s : State) : (startSync p e s).n = s.n := rfl
@[simp] theorem startSync_vop (p : Policy) (e : Byte) (s : State) : (startSync p e s).vop = s.vop := rfl
@[simp] theorem startSync_rs (p : Policy) (e : Byte) (s : State) : (startSync p e s).rs = .hunt0 := rfl
@[simp] theorem startSync_scan (p : Policy) (e : Byte) (s : State) : (startSync p e s).scan = 0 := rfl
@[simp] theorem startSync_idx (p : Policy) (e : Byte) (s : State) : (startSync p e s).idx = 0 := rfl
@[simp] theorem startSync_acc (p : Policy) (e : Byte) (s : State) : (startSync p e s).acc = 0 := rfl
@[simp] theorem startSync_lenf (p : Policy) (e : Byte) (s : State) : (startSync p e s).lenf = 0 := rfl
@[simp] theorem startSync_T (p : Policy) (e : Byte) (s : State) : (startSync p e s).T = 0 := rfl
@[simp] theorem startSync_pnrx (p : Policy) (e : Byte) (s : State) : (startSync p e s).pnrx = 0 := rfl
@[simp] theorem startSync_plenf (p : Policy) (e : Byte) (s : State) : (startSync p e s).plenf = none := rfl
@[simp] theorem startSync_pmatch (p : Policy) (e : Byte) (s : State) : (startSync p e s).pmatch = none := rfl
@[simp] theorem startSync_fbuf (p : Policy) (e : Byte) (s : State) : (startSync p e s).fbuf = [] := rfl
@[simp] theorem startSync_flen (p : Policy) (e : Byte) (s : State) : (startSync p e s).flen = 0 := rfl
@[simp] theorem startSync_cbuf (p : Policy) (e : Byte) (s : State) : (startSync p e s).cbuf = s.cbuf := rfl
@[simp] theorem startSync_res (p : Policy) (e : Byte) (s : State) : (startSync p e s).res = s.res := rfl
@[simp] theorem startSync_rx (p : Policy) (e : Byte) (s : State) : (startSync p e s).rx = s.rx := rfl
@[simp] theorem startSync_req (p : Policy) (e : Byte) (s : State) : (startSync p e s).req = s.req := rfl
@[simp] theorem startSync_host (p : Policy) (e : Byte) (s : State) : (startSync p e s).host = s.host := rfl
@[simp] theorem startSync_hostData (p : Policy) (e : Byte) (s : State) :
    (startSync p e s).hostData =
    s.hostData := rfl

/-! ### encodeCommand -/

@[simp] theorem encodeCommand_op (c : Byte) (p : Half) (s : State) : (encodeCommand c p s).op = .enc := rfl
@[simp] theorem encodeCommand_E (c : Byte) (p : Half) (s : State) : (encodeCommand c p s).E = s.E := rfl
@[simp] theorem encodeCommand_pol (c : Byte) (p : Half) (s : State) : (encodeCommand c p s).pol = s.pol := rfl
@[simp] theorem encodeCommand_code (c : Byte) (p : Half) (s : State) : (encodeCommand c p s).code = c := rfl
@[simp] theorem encodeCommand_payload (c : Byte) (p : Half) (s : State) : (encodeCommand c p s).payload = p := rfl
@[simp] theorem encodeCommand_n (c : Byte) (p : Half) (s : State) : (encodeCommand c p s).n = s.n := rfl
@[simp] theorem encodeCommand_vop (c : Byte) (p : Half) (s : State) : (encodeCommand c p s).vop = s.vop := rfl
@[simp] theorem encodeCommand_rs (c : Byte) (p : Half) (s : State) : (encodeCommand c p s).rs = .idle := rfl
@[simp] theorem encodeCommand_scan (c : Byte) (p : Half) (s : State) : (encodeCommand c p s).scan = s.scan := rfl
@[simp] theorem encodeCommand_idx (c : Byte) (p : Half) (s : State) : (encodeCommand c p s).idx = s.idx := rfl
@[simp] theorem encodeCommand_acc (c : Byte) (p : Half) (s : State) : (encodeCommand c p s).acc = s.acc := rfl
@[simp] theorem encodeCommand_lenf (c : Byte) (p : Half) (s : State) : (encodeCommand c p s).lenf = s.lenf := rfl
@[simp] theorem encodeCommand_T (c : Byte) (p : Half) (s : State) : (encodeCommand c p s).T = s.T := rfl
@[simp] theorem encodeCommand_pnrx (c : Byte) (p : Half) (s : State) : (encodeCommand c p s).pnrx = s.pnrx := rfl
@[simp] theorem encodeCommand_plenf (c : Byte) (p : Half) (s : State) : (encodeCommand c p s).plenf = s.plenf := rfl
@[simp] theorem encodeCommand_pmatch (c : Byte) (p : Half) (s : State) :
    (encodeCommand c p s).pmatch =
    s.pmatch := rfl
@[simp] theorem encodeCommand_fbuf (c : Byte) (p : Half) (s : State) : (encodeCommand c p s).fbuf = s.fbuf := rfl
@[simp] theorem encodeCommand_flen (c : Byte) (p : Half) (s : State) : (encodeCommand c p s).flen = s.flen := rfl
@[simp] theorem encodeCommand_cbuf (c : Byte) (p : Half) (s : State) :
    (encodeCommand c p s).cbuf =
    Memory.writeAll s.cbuf 0 (commandFrame c p) := rfl
@[simp] theorem encodeCommand_res (c : Byte) (p : Half) (s : State) :
    (encodeCommand c p s).res =
    { Result.blank .ok .enc 0 with csc := some (sum16 ((commandFrame c p).take 5)) } := rfl
@[simp] theorem encodeCommand_rx (c : Byte) (p : Half) (s : State) : (encodeCommand c p s).rx = s.rx := rfl
@[simp] theorem encodeCommand_req (c : Byte) (p : Half) (s : State) : (encodeCommand c p s).req = s.req := rfl
@[simp] theorem encodeCommand_host (c : Byte) (p : Half) (s : State) : (encodeCommand c p s).host = s.host := rfl
@[simp] theorem encodeCommand_hostData (c : Byte) (p : Half) (s : State) :
    (encodeCommand c p s).hostData =
    s.hostData := rfl

/-! ### verifyBytes -/

@[simp] theorem verifyBytes_op (n : Byte) (ops : List Byte) (s : State) : (verifyBytes n ops s).op = .verify := rfl
@[simp] theorem verifyBytes_E (n : Byte) (ops : List Byte) (s : State) : (verifyBytes n ops s).E = s.E := rfl
@[simp] theorem verifyBytes_pol (n : Byte) (ops : List Byte) (s : State) : (verifyBytes n ops s).pol = s.pol := rfl
@[simp] theorem verifyBytes_code (n : Byte) (ops : List Byte) (s : State) : (verifyBytes n ops s).code = s.code := rfl
@[simp] theorem verifyBytes_payload (n : Byte) (ops : List Byte) (s : State) :
    (verifyBytes n ops s).payload =
    s.payload := rfl
@[simp] theorem verifyBytes_n (n : Byte) (ops : List Byte) (s : State) : (verifyBytes n ops s).n = n.setWidth 6 := rfl
@[simp] theorem verifyBytes_vop (n : Byte) (ops : List Byte) (s : State) :
    (verifyBytes n ops s).vop =
    ops ++ s.vop.drop ops.length := rfl
@[simp] theorem verifyBytes_rs (n : Byte) (ops : List Byte) (s : State) : (verifyBytes n ops s).rs = .idle := rfl
@[simp] theorem verifyBytes_scan (n : Byte) (ops : List Byte) (s : State) : (verifyBytes n ops s).scan = s.scan := rfl
@[simp] theorem verifyBytes_idx (n : Byte) (ops : List Byte) (s : State) : (verifyBytes n ops s).idx = s.idx := rfl
@[simp] theorem verifyBytes_acc (n : Byte) (ops : List Byte) (s : State) : (verifyBytes n ops s).acc = s.acc := rfl
@[simp] theorem verifyBytes_lenf (n : Byte) (ops : List Byte) (s : State) : (verifyBytes n ops s).lenf = s.lenf := rfl
@[simp] theorem verifyBytes_T (n : Byte) (ops : List Byte) (s : State) : (verifyBytes n ops s).T = s.T := rfl
@[simp] theorem verifyBytes_pnrx (n : Byte) (ops : List Byte) (s : State) : (verifyBytes n ops s).pnrx = s.pnrx := rfl
@[simp] theorem verifyBytes_plenf (n : Byte) (ops : List Byte) (s : State) :
    (verifyBytes n ops s).plenf =
    s.plenf := rfl
@[simp] theorem verifyBytes_pmatch (n : Byte) (ops : List Byte) (s : State) :
    (verifyBytes n ops s).pmatch =
    s.pmatch := rfl
@[simp] theorem verifyBytes_fbuf (n : Byte) (ops : List Byte) (s : State) : (verifyBytes n ops s).fbuf = s.fbuf := rfl
@[simp] theorem verifyBytes_flen (n : Byte) (ops : List Byte) (s : State) : (verifyBytes n ops s).flen = s.flen := rfl
@[simp] theorem verifyBytes_cbuf (n : Byte) (ops : List Byte) (s : State) : (verifyBytes n ops s).cbuf = s.cbuf := rfl
@[simp] theorem verifyBytes_res (n : Byte) (ops : List Byte) (s : State) :
    (verifyBytes n ops s).res =
    { Result.blank (verdict (computed ((ops ++ s.vop.drop ops.length).take n.toNat))
        (stored ((ops ++ s.vop.drop ops.length).take n.toNat))) .verify 0 with
      csc := some (computed ((ops ++ s.vop.drop ops.length).take n.toNat)),
      csr := some (stored ((ops ++ s.vop.drop ops.length).take n.toNat)) } := rfl
@[simp] theorem verifyBytes_rx (n : Byte) (ops : List Byte) (s : State) : (verifyBytes n ops s).rx = s.rx := rfl
@[simp] theorem verifyBytes_req (n : Byte) (ops : List Byte) (s : State) : (verifyBytes n ops s).req = s.req := rfl
@[simp] theorem verifyBytes_host (n : Byte) (ops : List Byte) (s : State) : (verifyBytes n ops s).host = s.host := rfl
@[simp] theorem verifyBytes_hostData (n : Byte) (ops : List Byte) (s : State) :
    (verifyBytes n ops s).hostData =
    s.hostData := rfl

/-! ### storeByte -/

@[simp] theorem storeByte_op (i : Nat) (b : Byte) (s : State) : (storeByte i b s).op = s.op := rfl
@[simp] theorem storeByte_E (i : Nat) (b : Byte) (s : State) : (storeByte i b s).E = s.E := rfl
@[simp] theorem storeByte_pol (i : Nat) (b : Byte) (s : State) : (storeByte i b s).pol = s.pol := rfl
@[simp] theorem storeByte_code (i : Nat) (b : Byte) (s : State) : (storeByte i b s).code = s.code := rfl
@[simp] theorem storeByte_payload (i : Nat) (b : Byte) (s : State) : (storeByte i b s).payload = s.payload := rfl
@[simp] theorem storeByte_n (i : Nat) (b : Byte) (s : State) : (storeByte i b s).n = s.n := rfl
@[simp] theorem storeByte_vop (i : Nat) (b : Byte) (s : State) : (storeByte i b s).vop = s.vop := rfl
@[simp] theorem storeByte_rs (i : Nat) (b : Byte) (s : State) : (storeByte i b s).rs = s.rs := rfl
@[simp] theorem storeByte_scan (i : Nat) (b : Byte) (s : State) : (storeByte i b s).scan = s.scan := rfl
@[simp] theorem storeByte_idx (i : Nat) (b : Byte) (s : State) : (storeByte i b s).idx = BitVec.ofNat 6 (i + 1) := rfl
@[simp] theorem storeByte_acc (i : Nat) (b : Byte) (s : State) : (storeByte i b s).acc = s.acc + b.setWidth 16 := rfl
@[simp] theorem storeByte_lenf (i : Nat) (b : Byte) (s : State) : (storeByte i b s).lenf = s.lenf := rfl
@[simp] theorem storeByte_T (i : Nat) (b : Byte) (s : State) : (storeByte i b s).T = s.T := rfl
@[simp] theorem storeByte_pnrx (i : Nat) (b : Byte) (s : State) : (storeByte i b s).pnrx = s.pnrx := rfl
@[simp] theorem storeByte_plenf (i : Nat) (b : Byte) (s : State) : (storeByte i b s).plenf = s.plenf := rfl
@[simp] theorem storeByte_pmatch (i : Nat) (b : Byte) (s : State) : (storeByte i b s).pmatch = s.pmatch := rfl
@[simp] theorem storeByte_fbuf (i : Nat) (b : Byte) (s : State) :
    (storeByte i b s).fbuf =
    Memory.write s.fbuf i b := rfl
@[simp] theorem storeByte_flen (i : Nat) (b : Byte) (s : State) : (storeByte i b s).flen = s.flen := rfl
@[simp] theorem storeByte_cbuf (i : Nat) (b : Byte) (s : State) : (storeByte i b s).cbuf = s.cbuf := rfl
@[simp] theorem storeByte_res (i : Nat) (b : Byte) (s : State) : (storeByte i b s).res = s.res := rfl
@[simp] theorem storeByte_rx (i : Nat) (b : Byte) (s : State) : (storeByte i b s).rx = s.rx := rfl
@[simp] theorem storeByte_req (i : Nat) (b : Byte) (s : State) : (storeByte i b s).req = s.req := rfl
@[simp] theorem storeByte_host (i : Nat) (b : Byte) (s : State) : (storeByte i b s).host = s.host := rfl
@[simp] theorem storeByte_hostData (i : Nat) (b : Byte) (s : State) : (storeByte i b s).hostData = s.hostData := rfl

/-! ### consume -/

@[simp] theorem consume_op (rest : List RxEvent) (s : State) : (consume rest s).op = s.op := rfl
@[simp] theorem consume_E (rest : List RxEvent) (s : State) : (consume rest s).E = s.E := rfl
@[simp] theorem consume_pol (rest : List RxEvent) (s : State) : (consume rest s).pol = s.pol := rfl
@[simp] theorem consume_code (rest : List RxEvent) (s : State) : (consume rest s).code = s.code := rfl
@[simp] theorem consume_payload (rest : List RxEvent) (s : State) : (consume rest s).payload = s.payload := rfl
@[simp] theorem consume_n (rest : List RxEvent) (s : State) : (consume rest s).n = s.n := rfl
@[simp] theorem consume_vop (rest : List RxEvent) (s : State) : (consume rest s).vop = s.vop := rfl
@[simp] theorem consume_rs (rest : List RxEvent) (s : State) : (consume rest s).rs = s.rs := rfl
@[simp] theorem consume_scan (rest : List RxEvent) (s : State) : (consume rest s).scan = s.scan := rfl
@[simp] theorem consume_idx (rest : List RxEvent) (s : State) : (consume rest s).idx = s.idx := rfl
@[simp] theorem consume_acc (rest : List RxEvent) (s : State) : (consume rest s).acc = s.acc := rfl
@[simp] theorem consume_lenf (rest : List RxEvent) (s : State) : (consume rest s).lenf = s.lenf := rfl
@[simp] theorem consume_T (rest : List RxEvent) (s : State) : (consume rest s).T = s.T := rfl
@[simp] theorem consume_pnrx (rest : List RxEvent) (s : State) : (consume rest s).pnrx = s.pnrx + 1 := rfl
@[simp] theorem consume_plenf (rest : List RxEvent) (s : State) : (consume rest s).plenf = s.plenf := rfl
@[simp] theorem consume_pmatch (rest : List RxEvent) (s : State) : (consume rest s).pmatch = s.pmatch := rfl
@[simp] theorem consume_fbuf (rest : List RxEvent) (s : State) : (consume rest s).fbuf = s.fbuf := rfl
@[simp] theorem consume_flen (rest : List RxEvent) (s : State) : (consume rest s).flen = s.flen := rfl
@[simp] theorem consume_cbuf (rest : List RxEvent) (s : State) : (consume rest s).cbuf = s.cbuf := rfl
@[simp] theorem consume_res (rest : List RxEvent) (s : State) : (consume rest s).res = s.res := rfl
@[simp] theorem consume_rx (rest : List RxEvent) (s : State) : (consume rest s).rx = rest := rfl
@[simp] theorem consume_req (rest : List RxEvent) (s : State) : (consume rest s).req = s.req := rfl
@[simp] theorem consume_host (rest : List RxEvent) (s : State) : (consume rest s).host = s.host := rfl
@[simp] theorem consume_hostData (rest : List RxEvent) (s : State) : (consume rest s).hostData = s.hostData := rfl

/-! ### chargeByte -/

@[simp] theorem chargeByte_op (b : Byte) (s : State) : (chargeByte b s).op = s.op := rfl
@[simp] theorem chargeByte_E (b : Byte) (s : State) : (chargeByte b s).E = s.E := rfl
@[simp] theorem chargeByte_pol (b : Byte) (s : State) : (chargeByte b s).pol = s.pol := rfl
@[simp] theorem chargeByte_code (b : Byte) (s : State) : (chargeByte b s).code = s.code := rfl
@[simp] theorem chargeByte_payload (b : Byte) (s : State) : (chargeByte b s).payload = s.payload := rfl
@[simp] theorem chargeByte_n (b : Byte) (s : State) : (chargeByte b s).n = s.n := rfl
@[simp] theorem chargeByte_vop (b : Byte) (s : State) : (chargeByte b s).vop = s.vop := rfl
@[simp] theorem chargeByte_rs (b : Byte) (s : State) :
    (chargeByte b s).rs =
    if b = Config.sync0 then .hunt1 else .hunt0 := rfl
@[simp] theorem chargeByte_scan (b : Byte) (s : State) : (chargeByte b s).scan = s.scan + 1 := rfl
@[simp] theorem chargeByte_idx (b : Byte) (s : State) : (chargeByte b s).idx = s.idx := rfl
@[simp] theorem chargeByte_acc (b : Byte) (s : State) : (chargeByte b s).acc = s.acc := rfl
@[simp] theorem chargeByte_lenf (b : Byte) (s : State) : (chargeByte b s).lenf = s.lenf := rfl
@[simp] theorem chargeByte_T (b : Byte) (s : State) : (chargeByte b s).T = s.T := rfl
@[simp] theorem chargeByte_pnrx (b : Byte) (s : State) : (chargeByte b s).pnrx = s.pnrx := rfl
@[simp] theorem chargeByte_plenf (b : Byte) (s : State) : (chargeByte b s).plenf = s.plenf := rfl
@[simp] theorem chargeByte_pmatch (b : Byte) (s : State) : (chargeByte b s).pmatch = s.pmatch := rfl
@[simp] theorem chargeByte_fbuf (b : Byte) (s : State) : (chargeByte b s).fbuf = s.fbuf := rfl
@[simp] theorem chargeByte_flen (b : Byte) (s : State) : (chargeByte b s).flen = s.flen := rfl
@[simp] theorem chargeByte_cbuf (b : Byte) (s : State) : (chargeByte b s).cbuf = s.cbuf := rfl
@[simp] theorem chargeByte_res (b : Byte) (s : State) : (chargeByte b s).res = s.res := rfl
@[simp] theorem chargeByte_rx (b : Byte) (s : State) : (chargeByte b s).rx = s.rx := rfl
@[simp] theorem chargeByte_req (b : Byte) (s : State) : (chargeByte b s).req = s.req := rfl
@[simp] theorem chargeByte_host (b : Byte) (s : State) : (chargeByte b s).host = s.host := rfl
@[simp] theorem chargeByte_hostData (b : Byte) (s : State) : (chargeByte b s).hostData = s.hostData := rfl

/-! ### lockSync -/

@[simp] theorem lockSync_op (s : State) : (lockSync s).op = s.op := rfl
@[simp] theorem lockSync_E (s : State) : (lockSync s).E = s.E := rfl
@[simp] theorem lockSync_pol (s : State) : (lockSync s).pol = s.pol := rfl
@[simp] theorem lockSync_code (s : State) : (lockSync s).code = s.code := rfl
@[simp] theorem lockSync_payload (s : State) : (lockSync s).payload = s.payload := rfl
@[simp] theorem lockSync_n (s : State) : (lockSync s).n = s.n := rfl
@[simp] theorem lockSync_vop (s : State) : (lockSync s).vop = s.vop := rfl
@[simp] theorem lockSync_rs (s : State) : (lockSync s).rs = .lenHi := rfl
@[simp] theorem lockSync_scan (s : State) : (lockSync s).scan = s.scan := rfl
@[simp] theorem lockSync_idx (s : State) : (lockSync s).idx = 2 := rfl
@[simp] theorem lockSync_acc (s : State) :
    (lockSync s).acc =
    s.acc + Config.sync0.setWidth 16 + Config.sync1.setWidth 16 := rfl
@[simp] theorem lockSync_lenf (s : State) : (lockSync s).lenf = s.lenf := rfl
@[simp] theorem lockSync_T (s : State) : (lockSync s).T = s.T := rfl
@[simp] theorem lockSync_pnrx (s : State) : (lockSync s).pnrx = s.pnrx := rfl
@[simp] theorem lockSync_plenf (s : State) : (lockSync s).plenf = s.plenf := rfl
@[simp] theorem lockSync_pmatch (s : State) : (lockSync s).pmatch = s.pmatch := rfl
@[simp] theorem lockSync_fbuf (s : State) :
    (lockSync s).fbuf =
    Memory.write (Memory.write s.fbuf 0 Config.sync0) 1 Config.sync1 := rfl
@[simp] theorem lockSync_flen (s : State) : (lockSync s).flen = s.flen := rfl
@[simp] theorem lockSync_cbuf (s : State) : (lockSync s).cbuf = s.cbuf := rfl
@[simp] theorem lockSync_res (s : State) : (lockSync s).res = s.res := rfl
@[simp] theorem lockSync_rx (s : State) : (lockSync s).rx = s.rx := rfl
@[simp] theorem lockSync_req (s : State) : (lockSync s).req = s.req := rfl
@[simp] theorem lockSync_host (s : State) : (lockSync s).host = s.host := rfl
@[simp] theorem lockSync_hostData (s : State) : (lockSync s).hostData = s.hostData := rfl

/-! ### resetBlock -/

@[simp] theorem resetBlock_op (s : State) : (resetBlock s).op = State.reset.op := rfl
@[simp] theorem resetBlock_E (s : State) : (resetBlock s).E = State.reset.E := rfl
@[simp] theorem resetBlock_pol (s : State) : (resetBlock s).pol = State.reset.pol := rfl
@[simp] theorem resetBlock_code (s : State) : (resetBlock s).code = State.reset.code := rfl
@[simp] theorem resetBlock_payload (s : State) : (resetBlock s).payload = State.reset.payload := rfl
@[simp] theorem resetBlock_n (s : State) : (resetBlock s).n = State.reset.n := rfl
@[simp] theorem resetBlock_vop (s : State) : (resetBlock s).vop = State.reset.vop := rfl
@[simp] theorem resetBlock_rs (s : State) : (resetBlock s).rs = State.reset.rs := rfl
@[simp] theorem resetBlock_scan (s : State) : (resetBlock s).scan = State.reset.scan := rfl
@[simp] theorem resetBlock_idx (s : State) : (resetBlock s).idx = State.reset.idx := rfl
@[simp] theorem resetBlock_acc (s : State) : (resetBlock s).acc = State.reset.acc := rfl
@[simp] theorem resetBlock_lenf (s : State) : (resetBlock s).lenf = State.reset.lenf := rfl
@[simp] theorem resetBlock_T (s : State) : (resetBlock s).T = State.reset.T := rfl
@[simp] theorem resetBlock_pnrx (s : State) : (resetBlock s).pnrx = State.reset.pnrx := rfl
@[simp] theorem resetBlock_plenf (s : State) : (resetBlock s).plenf = State.reset.plenf := rfl
@[simp] theorem resetBlock_pmatch (s : State) : (resetBlock s).pmatch = State.reset.pmatch := rfl
@[simp] theorem resetBlock_fbuf (s : State) : (resetBlock s).fbuf = State.reset.fbuf := rfl
@[simp] theorem resetBlock_flen (s : State) : (resetBlock s).flen = State.reset.flen := rfl
@[simp] theorem resetBlock_cbuf (s : State) : (resetBlock s).cbuf = State.reset.cbuf := rfl
@[simp] theorem resetBlock_res (s : State) : (resetBlock s).res = State.reset.res := rfl
@[simp] theorem resetBlock_rx (s : State) : (resetBlock s).rx = s.rx := rfl
@[simp] theorem resetBlock_req (s : State) : (resetBlock s).req = s.req := rfl
@[simp] theorem resetBlock_host (s : State) : (resetBlock s).host = s.host := rfl
@[simp] theorem resetBlock_hostData (s : State) : (resetBlock s).hostData = s.hostData := rfl

end Sys2Proof.Machine
end

