-- ==== Sys2Proof/Laws/Moves.lean ====
section
/-! SUPPORT. What a step can do, said once: inversion lemmas for the shared operations, for one step of the running
SYNC, for a taken request and for a step of the machine. Proofs cite these and do not unfold the step. -/

namespace Sys2Proof.Machine

/-! ### Taking a request -/

theorem takeRequest_idle {legal : Bool} {f : State → State} {s : State} (h : s.rs = .idle) :
    takeRequest legal f s = .next (if legal then f s else refuseRequest s) := by
  cases legal <;> simp [takeRequest, State.busy, h]

theorem takeRequest_busy {legal : Bool} {f : State → State} {s : State} (h : s.rs ≠ .idle) :
    takeRequest legal f s = .next s := by
  simp [takeRequest, State.busy, h]

/-- What an accepted request makes of an idle block (R100, R145, R160), or a refused one (R183). -/
inductive Taken (s : State) : State → Prop
  /-- R183 -/
  | refused : Taken s (refuseRequest s)
  /-- R100 -/
  | sync (pol : Policy) (e : Byte) (h : legalLen e = true) : Taken s (startSync pol e s)
  /-- R160 -/
  | command (code : Byte) (payload : Half) : Taken s (encodeCommand code payload s)
  /-- R145 -/
  | verify (n : Byte) (ops : List Byte) (h : legalCount n ops = true) : Taken s (verifyBytes n ops s)

/-- Whatever the instruction, an idle block takes it as an accepted or a refused request. -/
theorem exec_taken (i : Instr) {s : State} (h : s.rs = .idle) : ∃ t, exec i s = .next t ∧ Taken s t := by
  cases i with
  | syncS e =>
    refine ⟨_, takeRequest_idle h, ?_⟩
    split
    · exact .sync _ _ ‹_›
    · exact .refused
  | syncT e =>
    refine ⟨_, takeRequest_idle h, ?_⟩
    split
    · exact .sync _ _ ‹_›
    · exact .refused
  | verify n ops =>
    refine ⟨_, takeRequest_idle h, ?_⟩
    split
    · exact .verify _ _ ‹_›
    · exact .refused
  | enc c p => exact ⟨_, takeRequest_idle h, .command c p⟩
  | readData => exact ⟨_, takeRequest_idle h, .sync .strict 32 rfl⟩
  | readStatus => exact ⟨_, takeRequest_idle h, .sync .strict 8 rfl⟩
  | setPassive => exact ⟨_, takeRequest_idle h, .command 0xE1 0⟩
  | setActive => exact ⟨_, takeRequest_idle h, .command 0xE1 1⟩
  | reqRead => exact ⟨_, takeRequest_idle h, .command 0xE2 0⟩
  | sleep => exact ⟨_, takeRequest_idle h, .command 0xE4 0⟩
  | wake => exact ⟨_, takeRequest_idle h, .command 0xE4 1⟩

/-- A request word presented to an idle block is taken as an accepted or a refused request. -/
theorem takeWord_taken (r : Request) {s : State} (h : s.rs = .idle) : ∃ t, takeWord r s = .next t ∧ Taken s t := by
  unfold takeWord
  split
  · exact exec_taken _ h
  · exact ⟨_, rfl, .refused⟩

/-! ### One step of the running SYNC -/

/-- Everything one step of a running SYNC can do when it gives a next state (R101 to R110). -/
inductive SyncMove (s : State) : State → Prop
  /-- nothing runs -/
  | notBusy (h : s.rs = .idle) : SyncMove s s
  /-- the Transport does not answer (R190) -/
  | unanswered (h : atRead s) (hx : s.rx = []) : SyncMove s s
  /-- the budget check of `HUNT0` (R102) -/
  | budget (h : s.rs = .hunt0) (hb : s.scan.toNat = scanBudget s.E) : SyncMove s (finishSync .timeout none s)
  /-- a Timeout event (R101) -/
  | timeout (h : atRead s) (rest : List RxEvent) (hx : s.rx = .timeout :: rest) :
    SyncMove s (finishSync .timeout none (consume rest s))
  /-- an Error event (R101) -/
  | error (h : atRead s) (rest : List RxEvent) (hx : s.rx = .error :: rest) :
    SyncMove s (finishSync .transportError none (consume rest s))
  /-- the byte of `HUNT0` (R102) -/
  | hunt0 (h : s.rs = .hunt0) (hb : s.scan.toNat ≠ scanBudget s.E) (b : Byte) (rest : List RxEvent)
      (hx : s.rx = .byte b :: rest) : SyncMove s (chargeByte b (consume rest s))
  /-- sync found in `HUNT1` (R104) -/
  | lock (h : s.rs = .hunt1) (rest : List RxEvent) (hx : s.rx = .byte Config.sync1 :: rest) :
    SyncMove s (lockSync (consume rest s))
  /-- the budget is used up in `HUNT1` (R104) -/
  | exhausted (h : s.rs = .hunt1) (b : Byte) (rest : List RxEvent) (hx : s.rx = .byte b :: rest)
      (hb : b ≠ Config.sync1) (hs : s.scan.toNat = scanBudget s.E) :
    SyncMove s (finishSync .timeout none (consume rest s))
  /-- a byte re-examined in `HUNT1` (R104) -/
  | hunt1 (h : s.rs = .hunt1) (b : Byte) (rest : List RxEvent) (hx : s.rx = .byte b :: rest)
      (hb : b ≠ Config.sync1) (hs : s.scan.toNat ≠ scanBudget s.E) : SyncMove s (chargeByte b (consume rest s))
  /-- the byte of `LEN_HI` (R105) -/
  | lenHi (h : s.rs = .lenHi) (b : Byte) (rest : List RxEvent) (hx : s.rx = .byte b :: rest) :
    SyncMove s { storeByte 2 b (consume rest s) with rs := .lenLo }
  /-- the byte of `LEN_LO`, and a Strict mismatch (R105, R106) -/
  | mismatch (h : s.rs = .lenLo) (hi b : Byte) (rest : List RxEvent) (hx : s.rx = .byte b :: rest)
      (hh : Memory.read s.fbuf 2 = some hi) (ht : targetLen s.pol (be16 hi b) s.E = none) :
    SyncMove s (finishSync .lengthMismatch none
      { storeByte 3 b (consume rest s) with
        lenf := be16 hi b, plenf := some (be16 hi b), pmatch := some (lengthMatches (be16 hi b) s.E) })
  /-- the byte of `LEN_LO`, and the policy's target length (R105 to R107) -/
  | length (h : s.rs = .lenLo) (hi b : Byte) (rest : List RxEvent) (t : BitVec 17) (hx : s.rx = .byte b :: rest)
      (hh : Memory.read s.fbuf 2 = some hi) (ht : targetLen s.pol (be16 hi b) s.E = some t) :
    SyncMove s
      { storeByte 3 b (consume rest s) with
        lenf := be16 hi b, plenf := some (be16 hi b), pmatch := some (lengthMatches (be16 hi b) s.E)
        T := t, rs := .body }
  /-- the byte of `BODY` (R108) -/
  | body (h : s.rs = .body) (ht : s.idx.toNat ≠ s.T.toNat) (hi : s.idx.toNat < Config.bufSize) (b : Byte)
      (rest : List RxEvent) (hx : s.rx = .byte b :: rest) :
    SyncMove s (storeByte s.idx.toNat b (consume rest s))
  /-- verification and completion (R109) -/
  | verified (h : s.rs = .body) (ht : s.idx.toNat = s.T.toNat) (frame : List Byte)
      (hf : Memory.readFrom s.fbuf 0 s.T.toNat = some frame) (hl : 2 ≤ frame.length) :
    SyncMove s (finishSync (verdict (computed frame) (stored frame)) (some (computed frame, stored frame)) s)

/-- What one `RxRead()` can do: no answer, a completion by Timeout or Error, or a byte handed on. -/
theorem rxRead_cases {f : Byte → State → Host.Outcome State Fault Refusal} {s t : State}
    (h : rxRead f s = .next t) :
    (s.rx = [] ∧ t = s) ∨
      (∃ rest, s.rx = .timeout :: rest ∧ t = finishSync .timeout none (consume rest s)) ∨
      (∃ rest, s.rx = .error :: rest ∧ t = finishSync .transportError none (consume rest s)) ∨
      (∃ b rest, s.rx = .byte b :: rest ∧ f b (consume rest s) = .next t) := by
  unfold rxRead at h
  split at h
  · cases h
    exact .inl ⟨‹_›, rfl⟩
  · exact .inr (.inr (.inr ⟨_, _, ‹_›, h⟩))
  · cases h
    exact .inr (.inl ⟨_, ‹_›, rfl⟩)
  · cases h
    exact .inr (.inr (.inl ⟨_, ‹_›, rfl⟩))

theorem syncStep_move {s t : State} (h : syncStep s = .next t) : SyncMove s t := by
  unfold syncStep at h
  split at h
  case h_1 hr =>
    cases h
    exact .notBusy hr
  case h_2 hr =>
    split at h
    · cases h
      exact .budget hr ‹_›
    · rename_i hb
      have ha : atRead s := ⟨by simp [hr], fun _ => hb, by simp [hr]⟩
      rcases rxRead_cases h with ⟨hx, rfl⟩ | ⟨rest, hx, rfl⟩ | ⟨rest, hx, rfl⟩ | ⟨b, rest, hx, h⟩
      · exact .unanswered ha hx
      · exact .timeout ha rest hx
      · exact .error ha rest hx
      · cases h
        exact .hunt0 hr hb b rest hx
  case h_3 hr =>
    have ha : atRead s := ⟨by simp [hr], by simp [hr], by simp [hr]⟩
    rcases rxRead_cases h with ⟨hx, rfl⟩ | ⟨rest, hx, rfl⟩ | ⟨rest, hx, rfl⟩ | ⟨b, rest, hx, h⟩
    · exact .unanswered ha hx
    · exact .timeout ha rest hx
    · exact .error ha rest hx
    · unfold hunt1Byte at h
      split at h
      · cases h
        subst b
        exact .lock hr rest hx
      · split at h
        · cases h
          exact .exhausted hr b rest hx ‹_› (by simpa using ‹(consume rest s).scan.toNat = _›)
        · cases h
          exact .hunt1 hr b rest hx ‹_› (by simpa using ‹¬ (consume rest s).scan.toNat = _›)
  case h_4 hr =>
    have ha : atRead s := ⟨by simp [hr], by simp [hr], by simp [hr]⟩
    rcases rxRead_cases h with ⟨hx, rfl⟩ | ⟨rest, hx, rfl⟩ | ⟨rest, hx, rfl⟩ | ⟨b, rest, hx, h⟩
    · exact .unanswered ha hx
    · exact .timeout ha rest hx
    · exact .error ha rest hx
    · cases h
      exact .lenHi hr b rest hx
  case h_5 hr =>
    have ha : atRead s := ⟨by simp [hr], by simp [hr], by simp [hr]⟩
    rcases rxRead_cases h with ⟨hx, rfl⟩ | ⟨rest, hx, rfl⟩ | ⟨rest, hx, rfl⟩ | ⟨b, rest, hx, h⟩
    · exact .unanswered ha hx
    · exact .timeout ha rest hx
    · exact .error ha rest hx
    · unfold lenLoByte at h
      split at h
      · cases h
      · rename_i hi hh
        dsimp only at h
        split at h
        · cases h
          exact .mismatch hr hi b rest hx (by simpa using hh) (by simpa using ‹targetLen _ _ _ = none›)
        · cases h
          exact .length hr hi b rest _ hx (by simpa using hh) (by simpa using ‹targetLen _ _ _ = some _›)
  case h_6 hr =>
    split at h
    · rename_i ht
      unfold verifyFrame at h
      split at h
      · cases h
      · split at h
        · cases h
          exact .verified hr ht _ ‹_› ‹_›
        · cases h
    · rename_i ht
      have ha : atRead s := ⟨by simp [hr], by simp [hr], fun _ => ht⟩
      rcases rxRead_cases h with ⟨hx, rfl⟩ | ⟨rest, hx, rfl⟩ | ⟨rest, hx, rfl⟩ | ⟨b, rest, hx, h⟩
      · exact .unanswered ha hx
      · exact .timeout ha rest hx
      · exact .error ha rest hx
      · unfold bodyByte at h
        split at h
        · cases h
          exact .body hr ht ‹_› b rest hx
        · cases h

theorem rxRead_byte (f : Byte → State → Host.Outcome State Fault Refusal) {s : State} {b : Byte}
    {rest : List RxEvent} (h : s.rx = .byte b :: rest) : rxRead f s = f b (consume rest s) := by
  simp [rxRead, h]

theorem rxRead_timeout (f : Byte → State → Host.Outcome State Fault Refusal) {s : State} {rest : List RxEvent}
    (h : s.rx = .timeout :: rest) : rxRead f s = .next (finishSync .timeout none (consume rest s)) := by
  simp [rxRead, h]

theorem rxRead_error (f : Byte → State → Host.Outcome State Fault Refusal) {s : State} {rest : List RxEvent}
    (h : s.rx = .error :: rest) : rxRead f s = .next (finishSync .transportError none (consume rest s)) := by
  simp [rxRead, h]

theorem rxRead_unanswered (f : Byte → State → Host.Outcome State Fault Refusal) {s : State} (h : s.rx = []) :
    rxRead f s = .next s := by
  simp [rxRead, h]

/-- At a read, the step of the running SYNC is one `RxRead()`. -/
theorem syncStep_atRead {s : State} (h : atRead s) : ∃ f, syncStep s = rxRead f s := by
  obtain ⟨h1, h2, h3⟩ := h
  unfold syncStep
  cases hr : s.rs with
  | idle => exact absurd hr h1
  | hunt0 => exact ⟨hunt0Byte, by simp [h2 hr]⟩
  | hunt1 => exact ⟨hunt1Byte, rfl⟩
  | lenHi => exact ⟨lenHiByte, rfl⟩
  | lenLo => exact ⟨lenLoByte, rfl⟩
  | body => exact ⟨bodyByte, by simp [h3 hr]⟩

/-- Each of these moves is what the step does. -/
theorem syncStep_of_move {s t : State} (h : SyncMove s t) : syncStep s = .next t := by
  cases h with
  | notBusy h => simp [syncStep, h]
  | unanswered h hx =>
    obtain ⟨f, hf⟩ := syncStep_atRead h
    rw [hf, rxRead_unanswered f hx]
  | budget h hb => simp [syncStep, h, hb]
  | timeout h rest hx =>
    obtain ⟨f, hf⟩ := syncStep_atRead h
    rw [hf, rxRead_timeout f hx]
  | error h rest hx =>
    obtain ⟨f, hf⟩ := syncStep_atRead h
    rw [hf, rxRead_error f hx]
  | hunt0 h hb b rest hx => simp [syncStep, h, hb, rxRead_byte _ hx, hunt0Byte]
  | lock h rest hx => simp [syncStep, h, rxRead_byte _ hx, hunt1Byte]
  | exhausted h b rest hx hb hs => simp [syncStep, h, rxRead_byte _ hx, hunt1Byte, hb, hs]
  | hunt1 h b rest hx hb hs => simp [syncStep, h, rxRead_byte _ hx, hunt1Byte, hb, hs]
  | lenHi h b rest hx => simp [syncStep, h, rxRead_byte _ hx, lenHiByte]
  | mismatch h hi b rest hx hh ht => simp [syncStep, h, rxRead_byte _ hx, lenLoByte, hh, ht]
  | length h hi b rest t hx hh ht => simp [syncStep, h, rxRead_byte _ hx, lenLoByte, hh, ht]
  | body h ht hi b rest hx => simp [syncStep, h, ht, rxRead_byte _ hx, bodyByte, hi]
  | verified h ht frame hf hl => simp [syncStep, h, ht, verifyFrame, hf, hl]

/-! ### A step of the block and of the machine -/

/-- While an operation runs, the block's step is a step of the SYNC. -/
theorem blockStep_busy {s : State} (h : s.rs ≠ .idle) : blockStep s = syncStep s := by
  unfold blockStep
  split
  · rename_i hh _
    exact absurd hh h
  · rename_i hh _
    exact absurd hh h
  · rfl

/-- With no host action to come, a step of the machine is a step of the block. -/
theorem step_block {s : State} (h : s.host = []) : step s = blockStep s := by
  unfold step totalStep
  rw [h]

/-- Everything a step of the block can do when it gives a next state. -/
theorem blockStep_cases {s t : State} (h : blockStep s = .next t) :
    (s.rs ≠ .idle ∧ SyncMove s t) ∨ (s.rs = .idle ∧ s.req = none ∧ t = s) ∨
      (s.rs = .idle ∧ ∃ r, s.req = some r ∧ takeWord r { s with req := none } = .next t) := by
  unfold blockStep at h
  split at h
  · exact .inr (.inr ⟨‹_›, _, ‹_›, h⟩)
  · cases h
    exact .inr (.inl ⟨‹_›, ‹_›, rfl⟩)
  · rename_i h1 h2
    refine .inl ⟨fun hi => ?_, syncStep_move h⟩
    cases hq : s.req with
    | none => exact h2 hi hq
    | some r => exact h1 r hi hq

/-- Who moves in a step of the machine (R61): the host, or the block. -/
inductive StepMove (s : State) : State → Prop
  /-- the host presents a request (R22 a) -/
  | present (r : Request) (rest : List HostAct) (hh : s.host = .present r :: rest) (hq : s.req = none) :
    StepMove s { s with req := some r, host := rest }
  /-- the host reads a register (R22 b) -/
  | read (g : HostReg) (rest : List HostAct) (v : BitVec 16) (hh : s.host = .read g :: rest)
      (hv : hostValue g s = .ok v) : StepMove s { s with host := rest, hostData := some v }
  /-- the host asserts reset (R22 c) -/
  | reset (rest : List HostAct) (hh : s.host = .reset :: rest) : StepMove s (resetBlock { s with host := rest })
  /-- the block moves -/
  | block (rest : List HostAct) (t : State) (hr : s.host = rest ∨ s.host = .pass :: rest)
      (hb : blockStep { s with host := rest } = .next t) : StepMove s t

/-- What the host reads does not depend on its own list of actions. -/
theorem hostValue_host (g : HostReg) (s : State) (rest : List HostAct) :
    hostValue g { s with host := rest } = hostValue g s := by
  cases g <;> rfl

theorem step_move {s t : State} (h : step s = .next t) : StepMove s t := by
  unfold step totalStep at h
  split at h
  case h_1 hh => exact .block [] t (.inl hh) (by rw [← hh]; exact h)
  case h_2 rest hh => exact .block rest t (.inr hh) h
  case h_3 r rest hh =>
    split at h
    · cases h
      exact .present r rest hh ‹_›
    · exact .block s.host t (.inl rfl) h
  case h_4 g rest hh =>
    unfold hostRead at h
    rw [hostValue_host] at h
    split at h
    · cases h
      exact .read g rest _ hh ‹_›
    · cases h
  case h_5 rest hh =>
    cases h
    exact .reset rest hh

/-! ### The block does not look at the host's list -/

theorem takeRequest_host (l : Bool) (f : State → State) (hf : ∀ s h, f { s with host := h } = { f s with host := h })
    (s : State) (h : List HostAct) :
    ∃ t, takeRequest l f s = .next t ∧ takeRequest l f { s with host := h } = .next { t with host := h } := by
  unfold takeRequest State.busy
  dsimp only
  split
  · exact ⟨_, rfl, rfl⟩
  · split
    · exact ⟨_, rfl, by rw [hf]⟩
    · exact ⟨_, rfl, rfl⟩

theorem exec_host (i : Instr) (s : State) (h : List HostAct) :
    ∃ t, exec i s = .next t ∧ exec i { s with host := h } = .next { t with host := h } := by
  cases i <;> exact takeRequest_host _ _ (fun _ _ => rfl) _ _

/-- An outcome with the host's further actions replaced. -/
def withHost (h : List HostAct) (o : Host.Outcome State Fault Refusal) : Host.Outcome State Fault Refusal :=
  match o with
  | .next t => .next { t with host := h }
  | .fault f => .fault f
  | .refused r => .refused r

theorem rxRead_host (f : Byte → State → Host.Outcome State Fault Refusal) (s : State) (h : List HostAct)
    (hf : ∀ b u, f b { u with host := h } = withHost h (f b u)) :
    rxRead f { s with host := h } = withHost h (rxRead f s) := by
  unfold rxRead
  dsimp only
  split
  · rfl
  · exact hf _ (consume _ s)
  · rfl
  · rfl

theorem syncStep_host (s : State) (h : List HostAct) : syncStep { s with host := h } = withHost h (syncStep s) := by
  unfold syncStep
  dsimp only
  split
  · rfl
  · split
    · rfl
    · exact rxRead_host _ _ _ fun _ _ => rfl
  · refine rxRead_host _ _ _ fun b u => ?_
    unfold hunt1Byte
    dsimp only
    split
    · rfl
    · split <;> rfl
  · exact rxRead_host _ _ _ fun _ _ => rfl
  · refine rxRead_host _ _ _ fun b u => ?_
    unfold lenLoByte
    dsimp only
    split
    · rfl
    · dsimp only [storeByte]
      split <;> rfl
  · split
    · unfold verifyFrame
      dsimp only
      split
      · rfl
      · split <;> rfl
    · refine rxRead_host _ _ _ fun b u => ?_
      unfold bodyByte
      dsimp only
      split <;> rfl

/-- What the block does depends on no action of the host, and changes none. -/
theorem blockStep_host (s : State) (h : List HostAct) : blockStep { s with host := h } = withHost h (blockStep s) := by
  unfold blockStep
  dsimp only
  split
  · unfold takeWord
    split
    · obtain ⟨t, h1, h2⟩ := exec_host ‹_› { s with req := none } h
      rw [h1]; exact h2
    · rfl
  · rfl
  · exact syncStep_host s h

end Sys2Proof.Machine
end

