-- ==== Sys2Proof/Laws/PerInstr.lean ====
section
/-! SUPPORT. Statements made per instruction. `RowMatch`: the word that encodes an instruction meets the match of its
row of the opcode table under the row's mask (R73 to R75, R91, R92). -/

namespace Sys2Proof.Laws.RowMatch

/-- The mask of the instruction's row of the opcode table. -/
def rowMask : Instr → Word
  | .syncS _ => 0xFFFF00FF
  | .syncT _ => 0xFFFF00FF
  | .enc _ _ => 0x000000FF
  | .verify _ _ => 0xFFFF00FF
  | .readData => 0xFFFFFFFF
  | .readStatus => 0xFFFFFFFF
  | .setPassive => 0xFFFFFFFF
  | .setActive => 0xFFFFFFFF
  | .reqRead => 0xFFFFFFFF
  | .sleep => 0xFFFFFFFF
  | .wake => 0xFFFFFFFF

/-- The match of the instruction's row of the opcode table. -/
def rowMatch : Instr → Word
  | .syncS _ => 0x00000001
  | .syncT _ => 0x00000011
  | .enc _ _ => 0x00000002
  | .verify _ _ => 0x00000003
  | .readData => 0x00002001
  | .readStatus => 0x00000801
  | .setPassive => 0x0000E102
  | .setActive => 0x0001E102
  | .reqRead => 0x0000E202
  | .sleep => 0x0000E402
  | .wake => 0x0001E402

/-- The encoded word, masked, is the row's match. -/
def Statement (i : Instr) : Prop := (encode i).word &&& rowMask i = rowMatch i

theorem syncS (e : Byte) : Statement (.syncS e) := (requestWord_and_mask 0 e 0 1).trans (by rw [rowMatch]; decide)
theorem syncT (e : Byte) : Statement (.syncT e) := (requestWord_and_mask 0 e 1 1).trans (by rw [rowMatch]; decide)
theorem enc (code : Byte) (payload : Half) : Statement (.enc code payload) :=
  (requestWord_and_low payload code 0 2).trans (by rw [rowMatch]; decide)
theorem verify (n : Byte) (ops : List Byte) : Statement (.verify n ops) :=
  (requestWord_and_mask 0 n 0 3).trans (by rw [rowMatch]; decide)
theorem readData : Statement .readData := by unfold Statement; decide
theorem readStatus : Statement .readStatus := by unfold Statement; decide
theorem setPassive : Statement .setPassive := by unfold Statement; decide
theorem setActive : Statement .setActive := by unfold Statement; decide
theorem reqRead : Statement .reqRead := by unfold Statement; decide
theorem sleep : Statement .sleep := by unfold Statement; decide
theorem wake : Statement .wake := by unfold Statement; decide

end Sys2Proof.Laws.RowMatch
end

