-- ==== Sys2Proof/Laws/Sums.lean ====
section
/-! SUPPORT. Byte sums, checksums and 16-bit values joined from bytes. -/

namespace Sys2Proof.Machine

@[simp] theorem byteSum_nil : byteSum [] = 0 := rfl

@[simp] theorem byteSum_cons (b : Byte) (bs : List Byte) : byteSum (b :: bs) = b.toNat + byteSum bs := rfl

@[simp] theorem byteSum_append (a b : List Byte) : byteSum (a ++ b) = byteSum a + byteSum b := by
  induction a with
  | nil => simp
  | cons x a ih => simp [ih, Nat.add_assoc]

theorem byteSum_le (s : List Byte) : byteSum s ≤ 255 * s.length := by
  induction s with
  | nil => simp
  | cons b s ih =>
    have := b.isLt
    simp only [byteSum_cons, List.length_cons]
    omega

@[simp] theorem sum16_nil : sum16 [] = 0 := rfl

theorem toNat_sum16 (s : List Byte) : (sum16 s).toNat = byteSum s % 65536 := by simp [sum16]

theorem sum16_append_one (s : List Byte) (b : Byte) : sum16 (s ++ [b]) = sum16 s + b.setWidth 16 := by
  apply BitVec.eq_of_toNat_eq
  have := b.isLt
  simp [sum16, BitVec.toNat_add]

theorem toNat_hi8 (v : Half) : (hi8 v).toNat = v.toNat / 256 := by
  have := v.isLt
  simp [hi8, BitVec.extractLsb'_toNat, Nat.shiftRight_eq_div_pow]
  omega

theorem toNat_lo8 (v : Half) : (lo8 v).toNat = v.toNat % 256 := by
  simp [lo8, BitVec.extractLsb'_toNat]

theorem toNat_be16 (h l : Byte) : (be16 h l).toNat = h.toNat * 256 + l.toNat := by
  have := h.isLt
  have := l.isLt
  simp [be16]
  omega

@[simp] theorem be16_hi8_lo8 (v : Half) : be16 (hi8 v) (lo8 v) = v := by
  apply BitVec.eq_of_toNat_eq
  rw [toNat_be16, toNat_hi8, toNat_lo8]
  omega

@[simp] theorem hi8_be16 (h l : Byte) : hi8 (be16 h l) = h := by
  apply BitVec.eq_of_toNat_eq
  have := l.isLt
  rw [toNat_hi8, toNat_be16]
  omega

@[simp] theorem lo8_be16 (h l : Byte) : lo8 (be16 h l) = l := by
  apply BitVec.eq_of_toNat_eq
  have := l.isLt
  rw [toNat_lo8, toNat_be16]
  omega

/-- `computed` of a list that ends in two given bytes. -/
theorem computed_append_two (s : List Byte) (h l : Byte) : computed (s ++ [h, l]) = sum16 s := by
  simp [computed]

/-- `stored` of a list that ends in two given bytes. -/
theorem stored_append_two (s : List Byte) (h l : Byte) : stored (s ++ [h, l]) = be16 h l := by
  simp [stored]

/-- A list of two bytes or more ends in two bytes. -/
theorem exists_last_two (s : List Byte) (h : 2 ≤ s.length) : ∃ t x y, s = t ++ [x, y] := by
  refine ⟨s.take (s.length - 2), s[s.length - 2], s[s.length - 1], ?_⟩
  have h1 : s.drop (s.length - 2) = [s[s.length - 2], s[s.length - 1]] := by
    rw [List.drop_eq_getElem_cons (by omega), List.drop_eq_getElem_cons (by omega),
      List.drop_eq_nil_of_le (by omega)]
    simp [show s.length - 2 + 1 = s.length - 1 by omega]
  rw [← h1, List.take_append_drop]

/-- A byte sum less the summands at `k` and `k + 1`, where no later byte is there, is the sum of the first `k` bytes. -/
theorem sum16_take (s : List Byte) (k : Nat) (h : s.length ≤ k + 2) :
    sum16 s - ((s[k]?.map (·.setWidth 16)).getD 0 : Half) - ((s[k + 1]?.map (·.setWidth 16)).getD 0 : Half)
      = sum16 (s.take k) := by
  rcases Nat.lt_trichotomy s.length (k + 1) with h1 | h1 | h1
  · have h2 : s.length ≤ k := by omega
    rw [List.getElem?_eq_none h2, List.getElem?_eq_none (by omega), List.take_of_length_le h2]
    simp
  · rcases List.eq_nil_or_concat s with rfl | ⟨t, x, rfl⟩
    · simp at h1
    · have hk : t.length = k := by simpa using h1
      subst hk
      rw [List.concat_eq_append, sum16_append_one]
      simp
  · obtain ⟨t, x, y, rfl⟩ := exists_last_two s (by omega)
    have hk : t.length = k := by simp at h h1; omega
    subst hk
    rw [show t ++ [x, y] = (t ++ [x]) ++ [y] by simp, sum16_append_one, sum16_append_one]
    have e : ∀ a b c : Half, a + b + c - b - c = a := fun a b c => by
      rw [sub_right_comm, add_sub_cancel_right, add_sub_cancel_right]
    simp [e]

end Sys2Proof.Machine
end

