-- ==== Sys2Proof/Tests/Slice0.lean ====
section
/-! SUPPORT. Tests of the model against the spec's own examples and vectors (95_test_vectors.md), and, for each
obligation with hypotheses, states and operands that meet them. Expected values come from the spec. -/

namespace Sys2Proof.Tests

open Sys2Proof Sys2Proof.Machine

/-! ### Well-formedness refuses each ill-formed operand (R76) -/

theorem test_wf_syncS_below : Instr.wellFormed (.syncS 5) = false := by decide
theorem test_wf_syncS_above : Instr.wellFormed (.syncS 33) = false := by decide
theorem test_wf_syncT_below : Instr.wellFormed (.syncT 5) = false := by decide
theorem test_wf_syncT_above : Instr.wellFormed (.syncT 33) = false := by decide
theorem test_wf_verify_below : Instr.wellFormed (.verify 1 [0]) = false := by decide
theorem test_wf_verify_above : Instr.wellFormed (.verify 33 (List.replicate 33 0)) = false := by decide
theorem test_wf_verify_count : Instr.wellFormed (.verify 7 (List.replicate 6 0)) = false := by decide
theorem test_wf_bounds_accepted :
    Instr.wellFormed (.syncS 6) ∧ Instr.wellFormed (.syncT 32) ∧ Instr.wellFormed (.verify 2 [0, 0]) ∧
      Instr.wellFormed (.verify 32 (List.replicate 32 0)) := by decide

/-! ### Decoding words written out from R70, R73, R74, R75, R91 (bits 31..16, 15..8, 7..4, 3..0) -/

theorem test_decode_syncS : decode ⟨0b0000000000000000_00011111_0000_0001, []⟩ = .ok (.syncS 31) := by rfl
theorem test_decode_syncT : decode ⟨0b0000000000000000_00001000_0001_0001, []⟩ = .ok (.syncT 8) := by rfl
theorem test_decode_enc : decode ⟨0b0011010001010110_00010010_0000_0010, []⟩ = .ok (.enc 0x12 0x3456) := by rfl
theorem test_decode_verify :
    decode ⟨0b0000000000000000_00000010_0000_0011, [0xAB, 0xCD]⟩ = .ok (.verify 2 [0xAB, 0xCD]) := by rfl

/-- R91: the word of each named call site or command decodes to its base operation. -/
theorem test_decode_aliases :
    decode ⟨0x00002001, []⟩ = .ok Instr.readData.expand ∧ decode ⟨0x00000801, []⟩ = .ok Instr.readStatus.expand ∧
      decode ⟨0x0000E102, []⟩ = .ok Instr.setPassive.expand ∧ decode ⟨0x0001E102, []⟩ = .ok Instr.setActive.expand ∧
      decode ⟨0x0000E202, []⟩ = .ok Instr.reqRead.expand ∧ decode ⟨0x0000E402, []⟩ = .ok Instr.sleep.expand ∧
      decode ⟨0x0001E402, []⟩ = .ok Instr.wake.expand := ⟨rfl, rfl, rfl, rfl, rfl, rfl, rfl⟩

/-- V-REQ-11 to V-REQ-14, V-REQ-18, V-REQ-22 and VERIFY with `w[4] = 1`: each reserved bit is refused by name. -/
theorem test_decode_reserved :
    decode ⟨0x00000000, []⟩ = .error (.reservedOp 0) ∧ decode ⟨0x00002004, []⟩ = .error (.reservedOp 4) ∧
      decode ⟨0x0000200F, []⟩ = .error (.reservedOp 15) ∧ decode ⟨0x00002021, []⟩ = .error .syncReservedBits ∧
      decode ⟨0x00010001, []⟩ = .error .syncArg16 ∧ decode ⟨0x00000012, []⟩ = .error .encReservedBits ∧
      decode ⟨0x00000713, []⟩ = .error .verifyReservedBits ∧
      decode ⟨0x00010703, []⟩ = .error .verifyArg16 := ⟨rfl, rfl, rfl, rfl, rfl, rfl, rfl, rfl⟩

/-- V-REQ-15 to V-REQ-17, V-REQ-19 to V-REQ-21: words of a row whose operands R76 refuses. -/
theorem test_decodeLegal_refuses :
    decodeLegal ⟨0x00000501, []⟩ = none ∧ decodeLegal ⟨0x00002101, []⟩ = none ∧
      decodeLegal ⟨0x00000103, [0]⟩ = none ∧ decodeLegal ⟨0x00000703, List.replicate 6 0⟩ = none ∧
      decodeLegal ⟨0x00002103, List.replicate 33 0⟩ = none := by decide

/-- V-REQ-4, V-REQ-8, V-REQ-10. -/
theorem test_decodeLegal_accepts :
    decodeLegal ⟨0x00000601, []⟩ = some (.syncS 6) ∧ decodeLegal ⟨0x00000F02, []⟩ = some (.enc 0x0F 0) ∧
      decodeLegal ⟨0x00002003, List.replicate 32 0⟩ = some (.verify 32 (List.replicate 32 0)) := by decide

/-- The host's numbering: a VERIFY's operand bytes follow the request word. -/
theorem test_decodeTableWord :
    decodeTableWord 32 0x00000801 = some (.syncS 8) ∧ decodeTableWord 32 0x34561202 = some (.enc 0x12 0x3456) ∧
      decodeTableWord 56 0x030201_00000303 = some (.verify 3 [1, 2, 3]) ∧
      decodeTableWord 32 0x00000303 = some (.verify 3 [0, 0, 0]) ∧ decodeTableWord 32 0x00000004 = none := by decide

/-! ### States -/

/-- The acknowledgment frame of V-S-1. -/
def ack : List Byte := [0x42, 0x4D, 0x00, 0x04, 0xE1, 0x00, 0x01, 0x74]

/-- A machine after reset with a request held and Rx events waiting. -/
def presented (r : Request) (rx : List RxEvent) : State := { State.reset with req := some r, rx := rx }

/-- A hunt with expected length `e` and `charged` bytes read. -/
def hunting (e : BitVec 6) (charged : Nat) (rs : RecvState) (rx : List RxEvent) : State :=
  { State.reset with
    op := .sync, E := e, rs := rs, scan := BitVec.ofNat 7 charged, pnrx := BitVec.ofNat 8 charged, rx := rx }

/-- A SYNC that synchronized on its first byte and stored the bytes `frame`. -/
def storing (e : BitVec 6) (pol : Policy) (rs : RecvState) (frame : List Byte) (rx : List RxEvent) : State :=
  { State.reset with
    op := .sync, E := e, pol := pol, rs := rs, scan := 1, pnrx := BitVec.ofNat 8 frame.length,
    idx := BitVec.ofNat 6 frame.length, acc := sum16 frame, fbuf := (List.range frame.length).zip frame, rx := rx }

/-- The same once both length bytes are read: `T` is the target. -/
def inBody (e : BitVec 6) (pol : Policy) (T : BitVec 17) (frame : List Byte) (rx : List RxEvent) : State :=
  let lenf := be16 (frame.getD 2 0) (frame.getD 3 0)
  { storing e pol .body frame rx with
    lenf := lenf, plenf := some lenf, pmatch := some (lengthMatches lenf e), T := T }

/-- What a test looks at. -/
def resultOf (o : Host.Outcome State Fault Refusal) : Option (Result × Nat × List RxEvent) :=
  match o with
  | .next s => some (s.res, s.flen.toNat, s.rx)
  | .fault _ => none
  | .refused _ => none

/-- A field of the next state. -/
def look {α : Type} (f : State → α) (o : Host.Outcome State Fault Refusal) : Option α :=
  match o with
  | .next s => some (f s)
  | .fault _ => none
  | .refused _ => none

/-! ### One step of each instruction, and of the running SYNC -/

/-- R100: acceptance consumes no event, and clears the buffer that an earlier operation left. -/
theorem test_syncS_accepts :
    look (fun s => (s.rs, s.E, bytesOf s.fbuf, s.rx))
        (exec (.syncS 6) { State.reset with fbuf := [(0, 1)], rx := [.timeout] })
      = some (.hunt0, 6, [], [.timeout]) := by rfl

theorem test_syncT_accepts :
    look (fun s => (s.rs, s.E, s.pol)) (exec (.syncT 32) State.reset) = some (.hunt0, 32, .tolerant) := by decide

theorem test_readData_accepts :
    look (fun s => (s.rs, s.E, s.pol)) (exec .readData State.reset) = some (.hunt0, 32, .strict) := by decide

theorem test_readStatus_accepts :
    look (fun s => (s.rs, s.E, s.pol)) (exec .readStatus State.reset) = some (.hunt0, 8, .strict) := by decide

/-- V-REQ-16, R183. -/
theorem test_syncS_refused :
    look (fun s => (s.res.st, s.res.rop, s.rs)) (exec (.syncS 5) State.reset)
      = some (.illegalRequest, .none, .idle) := by decide

/-- V-REQ-17. -/
theorem test_syncT_refused :
    look (fun s => s.res.st) (exec (.syncT 33) State.reset) = some .illegalRequest := by decide

/-- V-ENC-8. -/
theorem test_enc :
    look (fun s => (bytesOf s.cbuf, s.res.csc, s.res.st)) (exec (.enc 0x12 0x3456) State.reset)
      = some ([0x42, 0x4D, 0x12, 0x34, 0x56, 0x01, 0x2B], some 0x012B, .ok) := by decide

/-- V-ENC-7, the largest checksum, over a buffer that is already written. -/
theorem test_enc_max :
    look (fun s => (bytesOf s.cbuf, s.res.csc))
        (exec (.enc 0xFF 0xFFFF) { State.reset with cbuf := (List.range 7).zip (List.replicate 7 9) })
      = some ([0x42, 0x4D, 0xFF, 0xFF, 0xFF, 0x03, 0x8C], some 0x038C) := by decide

/-- V-ENC-1 to V-ENC-5. -/
theorem test_setPassive :
    look (fun s => (bytesOf s.cbuf, s.res.csc)) (exec .setPassive State.reset)
      = some ([0x42, 0x4D, 0xE1, 0x00, 0x00, 0x01, 0x70], some 0x0170) := by decide
theorem test_setActive :
    look (fun s => (bytesOf s.cbuf, s.res.csc)) (exec .setActive State.reset)
      = some ([0x42, 0x4D, 0xE1, 0x00, 0x01, 0x01, 0x71], some 0x0171) := by decide
theorem test_reqRead :
    look (fun s => (bytesOf s.cbuf, s.res.csc)) (exec .reqRead State.reset)
      = some ([0x42, 0x4D, 0xE2, 0x00, 0x00, 0x01, 0x71], some 0x0171) := by decide
theorem test_sleep :
    look (fun s => (bytesOf s.cbuf, s.res.csc)) (exec .sleep State.reset)
      = some ([0x42, 0x4D, 0xE4, 0x00, 0x00, 0x01, 0x73], some 0x0173) := by decide
theorem test_wake :
    look (fun s => (bytesOf s.cbuf, s.res.csc)) (exec .wake State.reset)
      = some ([0x42, 0x4D, 0xE4, 0x00, 0x01, 0x01, 0x74], some 0x0174) := by decide

/-- V-V-9: a corrupted command frame. -/
theorem test_verify_invalid :
    look (fun s => (s.res.st, s.res.csc, s.res.csr))
        (exec (.verify 7 [0x42, 0x4D, 0x12, 0x35, 0x56, 0x01, 0x2B]) State.reset)
      = some (.checksumInvalid, some 0x012C, some 0x012B) := by decide

/-- V-V-10: the largest sum. -/
theorem test_verify_largest :
    look (fun s => (s.res.st, s.res.csc)) (exec (.verify 32 (List.replicate 30 0xFF ++ [0x1D, 0xE2])) State.reset)
      = some (.ok, some 0x1DE2) := by decide

/-- V-S-6, its last step: the budget is used up, and no 18th read is made. -/
theorem test_hunt0_budget :
    resultOf (step (hunting 8 17 .hunt0 [.byte 0x42])) =
      some (Result.blank .timeout .sync 17, 0, [.byte 0x42]) := by decide

/-- V-S-7, its last step, and V-S-8: `0x4D` still synchronizes at `scan = B`. -/
theorem test_hunt1_budget :
    resultOf (step (hunting 8 17 .hunt1 [.byte 0x42, .timeout])) =
      some (Result.blank .timeout .sync 18, 0, [.timeout]) := by decide
theorem test_hunt1_locks_at_budget :
    look (fun s => (s.rs, bytesOf s.fbuf, s.acc)) (step (hunting 8 17 .hunt1 [.byte 0x4D]))
      = some (.lenHi, [0x42, 0x4D], 0x8F) := by decide

/-- V-S-2: `42 42` keeps the hunt in HUNT1. -/
theorem test_hunt1_reexamines :
    look (fun s => (s.rs, s.scan)) (step (hunting 8 1 .hunt1 [.byte 0x42])) = some (.hunt1, 2) := by decide

/-- V-S-12, its last step. -/
theorem test_error_in_lenLo :
    resultOf (step (storing 8 .strict .lenLo [0x42, 0x4D, 0x00] [.error])) =
      some (Result.blank .transportError .sync 4, 3, []) := by decide

/-- V-S-16, its last step: 0xFFFF + 4 does not wrap. -/
theorem test_length_mismatch :
    resultOf (step (storing 8 .strict .lenLo [0x42, 0x4D, 0xFF] [.byte 0xFF, .byte 0])) =
      some ({ Result.blank .lengthMismatch .sync 4 with lenf_r := some 0xFFFF, lmatch := some false }, 4,
            [.byte 0]) := by decide

/-- V-S-20: Tolerant truncates to E. -/
theorem test_tolerant_target :
    look (fun s => (s.rs, s.T, s.pmatch)) (step (storing 8 .tolerant .lenLo [0x42, 0x4D, 0xFF] [.byte 0xFF]))
      = some (.body, 8, some false) := by decide

/-- V-S-18: a Tolerant short frame. -/
theorem test_tolerant_short :
    look (fun s => (s.rs, s.T, s.pmatch)) (step (storing 32 .tolerant .lenLo [0x42, 0x4D, 0x00] [.byte 0x04]))
      = some (.body, 8, some false) := by decide

/-- V-S-1, its last two steps. -/
theorem test_body_stores :
    look (fun s => (s.rs, s.idx, bytesOf s.fbuf)) (step (inBody 8 .strict 8 (ack.take 7) [.byte 0x74]))
      = some (.body, 8, ack) := by decide
theorem test_body_verifies :
    resultOf (step (inBody 8 .strict 8 ack [.timeout])) =
      some ({ Result.blank .ok .sync 8 with
              lenf_r := some 4, lmatch := some true, csc := some 0x0174, csr := some 0x0174 }, 8,
            [.timeout]) := by decide

/-- V-S-21, its last step: length 0, no body. -/
theorem test_length_zero :
    resultOf (step (inBody 32 .tolerant 4 [0x42, 0x4D, 0, 0] [])) =
      some ({ Result.blank .checksumInvalid .sync 4 with
              lenf_r := some 0, lmatch := some false, csc := some 0x008F, csr := some 0 }, 4, []) := by decide

/-- V-RST-1: after reset `st` reads as 7 and `csc` faults. -/
theorem test_reset_reads :
    look (fun s => s.hostData) (step { State.reset with host := [.read .st] }) = some (some 7) ∧
      hostValue .csc State.reset = .error (.hostReadUnwritten .csc) ∧
      hostValue (.fbuf 0) State.reset = .error (.hostReadUnwritten (.fbuf 0)) := ⟨by decide, rfl, rfl⟩

/-- V-RST-2: reset ends a running SYNC; the consumed events stay consumed. -/
theorem test_reset_abandons :
    look (fun s => (s.rs, s.res, s.fbuf)) (step { storing 8 .strict .lenLo [0x42, 0x4D, 0] [] with host := [.reset] })
      = some (.idle, Result.reset, []) := by decide

/-- V-L1 and V-S-5 in the function form of R123. -/
theorem test_stream_form :
    syncStream .strict 8 ((List.replicate 16 0 ++ ack).map .byte) =
      some ⟨{ Result.blank .ok .sync 24 with
              lenf_r := some 4, lmatch := some true, csc := some 0x0174, csr := some 0x0174 }, ack, []⟩ := by decide

theorem test_reset_memory : Memory.wf 32 State.reset.fbuf ∧ Memory.wf 7 State.reset.cbuf := by decide

/-- A word placed by the host's hook runs at the next step, from reset, for each base row. -/
theorem test_withFetchWord :
    look (fun s => (s.rs, s.E)) (step (State.reset.withFetchWord 32 0x00000811)) = some (.hunt0, 8) ∧
      look (fun s => s.res.csc) (step (State.reset.withFetchWord 32 0x0001E402)) = some (some 0x0174) ∧
      look (fun s => s.res.st) (step (State.reset.withFetchWord 56 0x000000_00000303)) = some .ok := by decide

/-! ### Witnesses: states and operands that meet the hypotheses of each obligation -/

theorem witness_EncodeReproducesDecodedWord :
    decode ⟨0x00000203, [1, 2]⟩ = .ok (.verify 2 [1, 2]) ∧ decode ⟨0xFFFFFF02, []⟩ = .ok (.enc 0xFF 0xFFFF) :=
  ⟨rfl, rfl⟩

/-- Illegal requests beside each bound of R76. -/
theorem witness_RequestDecoderIsTotal_illegal :
    illegalRequest ⟨0x00000501, []⟩ ∧ illegalRequest ⟨0x00002101, []⟩ ∧ illegalRequest ⟨0x00000103, [0]⟩ ∧
      illegalRequest ⟨0x00002103, List.replicate 33 0⟩ ∧ illegalRequest ⟨0x00000012, []⟩ ∧
      illegalRequest ⟨0x00000004, []⟩ := by
  dsimp only [illegalRequest]
  refine ⟨?_, ?_, ?_, ?_, ?_, ?_⟩ <;> decide

/-- A legal request for each clause, at the bounds of R76. -/
theorem witness_RequestDecoderIsTotal :
    ¬ illegalRequest ⟨0x00000601, []⟩ ∧ ¬ illegalRequest ⟨0x00002011, []⟩ ∧ ¬ illegalRequest ⟨0x00000002, []⟩ ∧
      ¬ illegalRequest ⟨0x00000203, [0, 0]⟩ ∧ ¬ illegalRequest ⟨0x00002003, List.replicate 32 0⟩ := by
  dsimp only [illegalRequest]
  refine ⟨?_, ?_, ?_, ?_, ?_⟩ <;> decide

theorem witness_RefusedExactlyWhenIllegal :
    let bad := presented ⟨0x00002101, []⟩ []
    let good := presented ⟨0x00002001, []⟩ []
    bad.rs = .idle ∧ bad.host = [] ∧ bad.req = some ⟨0x00002101, []⟩ ∧ illegalRequest ⟨0x00002101, []⟩ ∧
      good.rs = .idle ∧ good.host = [] ∧ good.req = some ⟨0x00002001, []⟩ ∧ ¬ illegalRequest ⟨0x00002001, []⟩ := by
  dsimp only [illegalRequest]
  decide

theorem witness_StepRunsDecodedInstruction :
    let s := presented ⟨0x00000801, []⟩ []
    let p := { s with host := [.pass, .reset] }
    s.rs = .idle ∧ s.host = [] ∧ s.req = some ⟨0x00000801, []⟩ ∧ decode ⟨0x00000801, []⟩ = .ok (.syncS 8) ∧
      p.rs = .idle ∧ p.host = .pass :: [.reset] ∧ p.req = some ⟨0x00000801, []⟩ ∧
      decodeTableWord 32 0x00000801 = some (.syncS 8) := ⟨rfl, rfl, rfl, rfl, rfl, rfl, rfl, rfl⟩

/-- A running operation with the host passing, and with the host waiting to present. -/
theorem witness_StepRunsDecodedInstruction_running :
    let r : Request := ⟨0x00002001, []⟩
    let p := { hunting 8 0 .hunt0 [.byte 0] with host := [.pass, .reset] }
    let q := { hunting 8 0 .hunt0 [.byte 0] with host := [.present r], req := some r }
    p.host = .pass :: [.reset] ∧ (∃ t, step { p with host := [] } = .next t) ∧
      q.req ≠ none ∧ (∃ r rest, q.host = .present r :: rest) ∧ ∃ t, step { q with host := [] } = .next t :=
  ⟨rfl, ⟨_, rfl⟩, by decide, ⟨_, _, rfl⟩, _, rfl⟩

theorem witness_IdleBlockWaits :
    State.reset.rs = .idle ∧ State.reset.req = none ∧ State.reset.host = [] := ⟨rfl, rfl, rfl⟩

theorem witness_PresentedRequestIsHeld :
    let r : Request := ⟨0x00000801, []⟩
    let free := { State.reset with host := [.present r, .pass] }
    let full := { State.reset with host := [.present r], req := some r }
    free.host = .present r :: [.pass] ∧ free.req = none ∧ full.host = .present r :: [] ∧ full.req ≠ none := by
  decide

theorem witness_HeldRequestDoesNotDisturb :
    let s := { hunting 8 0 .hunt0 [.byte 0] with req := some ⟨0x00002001, []⟩ }
    s.busy = true ∧ s.host = [] ∧ ∃ t, step s = .next t := ⟨rfl, rfl, _, rfl⟩

theorem witness_NoAcceptanceWhileBusy : (hunting 8 0 .hunt0 []).rs ≠ .idle := by decide

theorem witness_SyncIsAccepted :
    State.reset.rs = .idle ∧ 6 ≤ (6 : Byte).toNat ∧ (6 : Byte).toNat ≤ 32 ∧ (32 : Byte).toNat ≤ 32 := by decide

theorem witness_EncBuildsTheCommandFrame : State.reset.rs = .idle := rfl

theorem witness_NamedCommandsBuildTheirFrames : State.reset.rs = .idle := rfl

theorem witness_VerifyComparesTheChecksum :
    State.reset.rs = .idle ∧ ([] : List Byte).length + 2 = (2 : Byte).toNat ∧
      (List.replicate 30 (0xFF : Byte)).length + 2 = (32 : Byte).toNat ∧ (32 : Byte).toNat ≤ 32 := by decide

theorem witness_IllegalOperandsAreRefused :
    State.reset.rs = .idle ∧ (5 : Byte).toNat < 6 ∧ 32 < (33 : Byte).toNat ∧ (1 : Byte).toNat < 2 ∧
      ([0] : List Byte).length ≠ (2 : Byte).toNat := by decide

/-- A read in each of the five receive states. -/
theorem witness_TransportEventsEndTheSync :
    atRead (hunting 8 16 .hunt0 [.timeout]) ∧ atRead (hunting 8 17 .hunt1 [.error]) ∧
      atRead (storing 8 .strict .lenHi [0x42, 0x4D] [.timeout]) ∧
      atRead (storing 8 .strict .lenLo [0x42, 0x4D, 0] [.error]) ∧
      atRead (inBody 8 .strict 8 (ack.take 7) [.timeout]) ∧ (hunting 8 16 .hunt0 [.timeout]).host = [] := by
  unfold atRead
  decide

theorem witness_HuntZeroStep :
    let full := hunting 8 17 .hunt0 []
    let s := hunting 8 16 .hunt0 [.byte 0x42]
    full.rs = .hunt0 ∧ full.host = [] ∧ full.scan.toNat = 2 * full.E.toNat + 1 ∧
      s.rs = .hunt0 ∧ s.host = [] ∧ s.scan.toNat ≠ 2 * s.E.toNat + 1 ∧ s.rx = .byte 0x42 :: [] := by decide

/-- `0x4D` with the budget used up, another byte with it used up, and another byte with one unit left. -/
theorem witness_HuntOneStep :
    let full (b : Byte) := hunting 8 17 .hunt1 [.byte b]
    let s := hunting 8 16 .hunt1 [.byte 0x42]
    (full 0x4D).rs = .hunt1 ∧ (full 0x4D).host = [] ∧ (full 0x42).rx = .byte 0x42 :: [] ∧ (0x42 : Byte) ≠ 0x4D ∧
      (full 0x42).scan.toNat = 2 * (full 0x42).E.toNat + 1 ∧ s.rs = .hunt1 ∧
      s.scan.toNat ≠ 2 * s.E.toNat + 1 := by decide

theorem witness_LengthHighStep :
    let s := storing 8 .strict .lenHi [0x42, 0x4D] [.byte 7]
    s.rs = .lenHi ∧ s.host = [] ∧ s.rx = .byte 7 :: [] := by decide

/-- Strict with a matching and a mismatching length, and Tolerant. -/
theorem witness_LengthLowStep :
    let s (pol : Policy) (l : Byte) := storing 8 pol .lenLo [0x42, 0x4D, 0] [.byte l]
    (s .strict 4).rs = .lenLo ∧ (s .strict 4).host = [] ∧ (s .strict 4).rx = .byte 4 :: [] ∧
      Memory.read (s .strict 4).fbuf 2 = some 0 ∧ 0 * 256 + (4 : Byte).toNat + 4 = (s .strict 4).E.toNat ∧
      0 * 256 + (5 : Byte).toNat + 4 ≠ (s .strict 5).E.toNat ∧ (s .strict 5).pol = .strict ∧
      (s .tolerant 5).pol = .tolerant := by decide

/-- The last index of the body, at the largest E. -/
theorem witness_BodyStep :
    let s := inBody 32 .strict 32 ([0x42, 0x4D, 0, 28] ++ List.replicate 27 0) [.byte 1]
    s.rs = .body ∧ s.host = [] ∧ s.rx = .byte 1 :: [] ∧ s.idx.toNat ≠ s.T.toNat ∧ s.idx.toNat = 31 := by decide

theorem witness_VerificationStep :
    let s := inBody 8 .strict 8 ack []
    s.rs = .body ∧ s.host = [] ∧ s.idx.toNat = s.T.toNat ∧
      (List.range s.T.toNat).map (Memory.read s.fbuf) = (ack.take 6 ++ [0x01, 0x74]).map some := by decide

theorem witness_NoReadAhead : ∃ t, step (hunting 8 0 .hunt0 [.byte 0]) = .next t := ⟨_, rfl⟩

theorem witness_OneSyncPerOperation :
    let s := storing 8 .strict .lenHi [0x42, 0x4D] [.byte 0x42]
    s.rs = .lenHi ∧ (∃ t, step s = .next t) ∧ ∃ t, step { s with host := [.pass] } = .next t :=
  ⟨rfl, ⟨_, rfl⟩, _, rfl⟩

theorem witness_LatchAndResultStableWhileRunning :
    let s := hunting 8 0 .hunt0 [.byte 0x42]
    s.busy = true ∧ ∃ t, step s = .next t ∧ t.busy = true := ⟨rfl, _, rfl, rfl⟩

/-- A step that takes an ENC, and a step of a running SYNC that stores bytes. -/
theorem witness_BuffersHaveOneWriter :
    let s := presented ⟨0x0000E102, []⟩ []
    let u := hunting 8 1 .hunt1 [.byte 0x4D]
    (∀ rest, s.host ≠ .reset :: rest) ∧ (∃ t, step s = .next t ∧ t.cbuf ≠ s.cbuf) ∧
      (∀ rest, u.host ≠ .reset :: rest) ∧ ∃ t, step u = .next t ∧ t.fbuf ≠ u.fbuf :=
  ⟨by simp [presented, State.reset], ⟨_, rfl, by decide⟩, by simp [hunting, State.reset], _, rfl, by decide⟩

/-- Idle, with every optional field and both buffers written. -/
def published : State :=
  { State.reset with
    res := ⟨.ok, .sync, 8, some 4, some true, some 0x0174, some 0x0174⟩, flen := 8,
    fbuf := (List.range 8).zip ack, cbuf := (List.range 7).zip [0x42, 0x4D, 0xE1, 0, 0, 1, 0x70] }

theorem witness_HostReadsReturnTheRegister :
    published.busy = false ∧ published.res.lenf_r = some 4 ∧ published.res.lmatch = some true ∧
      published.res.csc = some 0x0174 ∧ published.res.csr = some 0x0174 ∧
      Memory.read published.fbuf 7 = some 0x74 ∧ Memory.read published.cbuf 6 = some 0x70 := by decide

theorem witness_HostReadWhileBusyFaults :
    let s (g : HostReg) := { hunting 8 0 .hunt0 [] with host := [.read g] }
    (s .st).busy = true ∧ (s .st).host = .read .st :: [] ∧ HostReg.st ≠ .busy ∧ (s .busy).busy = true := by decide

/-- An unwritten result field, and the buffer bytes just past `flen` and at both ends. -/
theorem witness_HostReadOfUnwrittenFaults :
    let s (g : HostReg) := { State.reset with host := [.read g] }
    (s .csr).busy = false ∧ (s .csr).host = .read .csr :: [] ∧ (s .lenf_r).res.lenf_r = none ∧
      (s .lmatch).res.lmatch = none ∧ (s .csc).res.csc = none ∧ (s .csr).res.csr = none ∧
      Memory.read published.fbuf 8 = none ∧ Memory.read published.fbuf 31 = none ∧
      Memory.read (s (.cbuf 6)).cbuf 6 = none := by decide

theorem witness_ResetAbandonsTheOperation :
    { hunting 8 3 .hunt1 [.byte 1] with host := [.reset, .pass] }.host = .reset :: [.pass] := rfl

/-! ### The invariants hold of real states -/

theorem reset_runInv : RunInv State.reset where
  buffers := ⟨by decide, by decide, by decide⟩
  cbufWhole := .inl rfl
  idleFilled := by decide
  busyFilled := by decide
  busyOp := by decide
  sum := by decide
  counters := trivial
  content := trivial

/-- The invariant says nothing of the two other agents. -/
theorem RunInv_agents {s : State} (h : RunInv s) (rx : List RxEvent) (host : List HostAct) :
    RunInv { s with rx := rx, host := host } where
  buffers := ⟨h.buffers.fbufWf, h.buffers.cbufWf, h.buffers.vopLength⟩
  cbufWhole := h.cbufWhole
  idleFilled := h.idleFilled
  busyFilled := h.busyFilled
  busyOp := h.busyOp
  sum := h.sum
  counters := h.counters
  content := h.content

/-- The hunt of V-S-7 and V-S-8 at `scan = B`. -/
theorem hunting_runInv : RunInv (hunting 8 17 .hunt1 []) where
  buffers := ⟨by decide, by decide, by decide⟩
  cbufWhole := .inl rfl
  idleFilled := by decide
  busyFilled := by decide
  busyOp := by decide
  sum := by decide
  counters := ⟨by decide, by decide, by decide⟩
  content := ⟨rfl, rfl⟩

/-- A body state with the whole frame of V-S-1 stored: the next step verifies. -/
theorem ackBody_runInv : RunInv (inBody 8 .strict 8 ack []) where
  buffers := ⟨by decide, by decide, by decide⟩
  cbufWhole := .inl rfl
  idleFilled := by decide
  busyFilled := by decide
  busyOp := by decide
  sum := by decide
  counters := ⟨by decide, by decide, by decide, by decide, by decide⟩
  content := ⟨⟨0, 4, rfl, rfl⟩, rfl, by decide, by decide, by decide⟩

/-- A Strict data frame with E = 32, whole in `fbuf`: V-L1. -/
def data0 : List Byte := [0x42, 0x4D, 0x00, 0x1C, 0x00, 0x32] ++ List.replicate 24 0 ++ [0x00, 0xDD]

theorem data0Body_runInv : RunInv (inBody 32 .strict 32 data0 []) where
  buffers := ⟨by decide, by decide, by decide⟩
  cbufWhole := .inl rfl
  idleFilled := by decide
  busyFilled := by decide
  busyOp := by decide
  sum := by decide
  counters := ⟨by decide, by decide, by decide, by decide, by decide⟩
  content := ⟨⟨0, 0x1C, rfl, rfl⟩, rfl, by decide, by decide, by decide⟩

/-- V-S-22, with its one body byte stored: length 1 under Tolerant. -/
theorem tinyBody_runInv : RunInv (inBody 32 .tolerant 5 [0x42, 0x4D, 0, 1, 0x8F] []) where
  buffers := ⟨by decide, by decide, by decide⟩
  cbufWhole := .inl rfl
  idleFilled := by decide
  busyFilled := by decide
  busyOp := by decide
  sum := by decide
  counters := ⟨by decide, by decide, by decide, by decide, by decide⟩
  content := ⟨⟨0, 1, rfl, rfl⟩, rfl, by decide, by decide, by decide⟩

theorem witness_StepKeepsBuffersCanonical :
    BuffersInv (inBody 8 .strict 8 (ack.take 7) [.byte 0x74]) ∧
      ∃ t, step (inBody 8 .strict 8 (ack.take 7) [.byte 0x74]) = .next t :=
  ⟨⟨by decide, by decide, by decide⟩, _, rfl⟩

theorem witness_StepKeepsTheRunInvariant :
    RunInv (inBody 8 .strict 8 ack []) ∧ ∃ t, step (inBody 8 .strict 8 ack []) = .next t :=
  ⟨ackBody_runInv, _, rfl⟩

theorem ackBody_inv : Inv (inBody 8 .strict 8 ack []) :=
  ⟨ackBody_runInv, .inr rfl, rfl, rfl, rfl, rfl, rfl⟩

theorem witness_StepKeepsTheInvariant :
    Inv (inBody 8 .strict 8 ack []) ∧ ∃ t, step (inBody 8 .strict 8 ack []) = .next t := ⟨ackBody_inv, _, rfl⟩

theorem witness_InvalidStateIsNeverReported :
    Inv (inBody 8 .strict 8 ack []) ∧ ∃ t, run 1 (inBody 8 .strict 8 ack []) = .next t := ⟨ackBody_inv, _, rfl⟩

/-- A state that meets the invariant, and one whose next host read faults. -/
theorem witness_OnlyHostReadsStop :
    RunInv (inBody 8 .strict 8 ack []) ∧ RunInv { hunting 8 17 .hunt1 [] with host := [.read .st] } ∧
      step { hunting 8 17 .hunt1 [] with host := [.read .st] } = .fault (.hostReadBusy .st) :=
  ⟨ackBody_runInv, RunInv_agents hunting_runInv [] _, rfl⟩

theorem witness_SyncReadsAreBounded :
    let s := hunting 8 17 .hunt1 [.byte 0]
    RunInv s ∧ s.busy = true ∧ s.host = [] ∧ ∃ t, step s = .next t ∧ t.busy = false :=
  ⟨RunInv_agents hunting_runInv [.byte 0] [], rfl, rfl, _, rfl, rfl⟩

theorem witness_SyncCompletesWhenAnswered :
    let s := hunting 8 17 .hunt1 (List.replicate 7 (.byte 0x4D))
    RunInv s ∧ s.busy = true ∧ s.host = [] ∧ 3 * s.E.toNat ≤ s.pnrx.toNat + s.rx.length :=
  ⟨RunInv_agents hunting_runInv _ [], rfl, rfl, by decide⟩

theorem witness_UnansweredReadHoldsTheBlock :
    let s := hunting 8 16 .hunt0 []
    atRead s ∧ s.host = [] ∧ s.rx = [] ∧ run 1 s = .next s := by
  refine ⟨?_, rfl, rfl, rfl⟩
  unfold atRead
  decide

theorem witness_OkMeansAVerifiedFrame :
    let s := inBody 8 .strict 8 ack []
    RunInv s ∧ s.busy = true ∧ s.host = [] ∧ ∃ t, step s = .next t ∧ t.busy = false ∧ t.res.st = .ok :=
  ⟨ackBody_runInv, rfl, rfl, _, rfl, rfl, by decide⟩

theorem witness_StrictOkIsEligible :
    let s := inBody 32 .strict 32 data0 []
    RunInv s ∧ s.busy = true ∧ s.host = [] ∧ s.pol = .strict ∧ s.E = 32 ∧
      ∃ t, step s = .next t ∧ t.busy = false ∧ t.res.st = .ok :=
  ⟨data0Body_runInv, rfl, rfl, rfl, rfl, _, rfl, rfl, by decide⟩

theorem witness_TolerantNeverMismatches :
    let s := inBody 32 .tolerant 5 [0x42, 0x4D, 0, 1, 0x8F] []
    s.busy = true ∧ s.host = [] ∧ s.pol = .tolerant ∧ ∃ t, step s = .next t ∧ t.busy = false :=
  ⟨rfl, rfl, rfl, _, rfl, rfl⟩

theorem witness_TinyLengthsNeverVerify :
    let s := inBody 32 .tolerant 5 [0x42, 0x4D, 0, 1, 0x8F] []
    RunInv s ∧ s.rs = .body ∧ s.host = [] ∧ s.lenf.toNat < 2 ∧ ∃ t, step s = .next t ∧ t.busy = false :=
  ⟨tinyBody_runInv, rfl, rfl, by decide, _, rfl, rfl⟩

/-- Each of the four instructions, with a stream that completes and one that ends before. -/
theorem witness_StepFormIsStreamForm :
    State.reset.rs = .idle ∧ State.reset.host = [] ∧ 6 ≤ (6 : Byte).toNat ∧ (32 : Byte).toNat ≤ 32 ∧
      (syncStream .strict 8 (ack.map .byte)).isSome ∧ (syncStream .tolerant 32 (ack.map .byte)).isSome ∧
      syncStream .strict 32 [.byte 0x42] = none := by decide

theorem ack_validFrame : validFrame ack := ⟨0, 4, [0xE1, 0x00, 0x01, 0x74], rfl, by decide, by decide⟩

theorem noSyncPair_of_no42 (g : List Byte) (h : Config.sync0 ∉ g) : noSyncPair g := by
  intro a b e
  exact h (e ▸ by simp)

theorem noSyncPair_of_one42 (g : List Byte) (h : Config.sync0 ∉ g) : noSyncPair (g ++ [Config.sync0]) := by
  intro a b e
  have := congrArg List.dropLast e
  rw [List.dropLast_concat, List.dropLast_append_of_ne_nil (by simp)] at this
  exact h (this ▸ by simp)

/-- Garbage of 2E bytes, of 2E+1 bytes, and of 2E+1 bytes whose last is `0x42`. -/
theorem witness_GarbageRecovery :
    6 ≤ (8 : Byte).toNat ∧ (8 : Byte).toNat ≤ 32 ∧ validFrame ack ∧ ack.length = (8 : Byte).toNat ∧
      noSyncPair (List.replicate 16 0) ∧ noSyncPair (List.replicate 17 0) ∧
      noSyncPair (List.replicate 16 0 ++ [Config.sync0]) ∧
      (List.replicate 16 (0 : Byte) ++ [Config.sync0])[16]? = some 0x42 :=
  ⟨by decide, by decide, ack_validFrame, by decide, noSyncPair_of_no42 _ (by decide), noSyncPair_of_no42 _ (by decide),
    noSyncPair_of_one42 _ (by decide), by decide⟩

theorem witness_OperationsDoNotDependOnHistory :
    let r : Request := ⟨0x00000801, []⟩
    let s1 := presented r [.byte 1]
    let s2 := { published with req := some r, rx := [.byte 1] }
    s1.rs = .idle ∧ s2.rs = .idle ∧ s1.host = [] ∧ s2.host = [] ∧ s1.req = some r ∧ s2.req = some r ∧
      s1.rx = s2.rx ∧ ∃ t, run 1 s1 = .next t := ⟨rfl, rfl, rfl, rfl, rfl, rfl, rfl, _, rfl⟩

theorem witness_AccumulatorGivesTheChecksum :
    let s := inBody 8 .strict 8 ack []
    RunInv s ∧ s.rs = .body ∧ s.idx.toNat = s.T.toNat ∧ Memory.readFrom s.fbuf 0 s.T.toNat = some ack :=
  ⟨ackBody_runInv, rfl, by decide, by decide⟩

/-- Before the body, and at verification. -/
theorem witness_AccumulatorLeavesOutTheStoredChecksum :
    let s := inBody 8 .strict 8 ack []
    RunInv (hunting 8 17 .hunt1 []) ∧ RunInv s ∧ s.busy = true ∧ s.host = [] ∧ s.rs = .body ∧
      ∃ t, step s = .next t ∧ t.busy = false ∧ t.res.csc = some 0x0174 :=
  ⟨hunting_runInv, ackBody_runInv, rfl, rfl, rfl, _, rfl, rfl, rfl⟩

/-- R33 on the frame of V-S-1: 0x174 after five to eight bytes (byte 5 is 0), where `acc` itself goes on. -/
theorem test_coveredSum :
    (inBody 8 .strict 8 (ack.take 5) []).coveredSum = 0x0174 ∧
      (inBody 8 .strict 8 (ack.take 6) []).coveredSum = 0x0174 ∧
      (inBody 8 .strict 8 (ack.take 7) []).coveredSum = 0x0174 ∧ (inBody 8 .strict 8 ack []).coveredSum = 0x0174 ∧
      (inBody 8 .strict 8 ack []).acc = 0x01E9 := by decide

theorem witness_ChecksumIgnoresOrder : ([1, 2] : List Byte).Perm [2, 1] := by decide

/-- A covered byte, and each of the two stored bytes. -/
theorem witness_SingleByteCorruptionIsDetected :
    State.reset.rs = .idle ∧ 2 ≤ (8 : Byte).toNat ∧ (8 : Byte).toNat ≤ 32 ∧ ack.length = (8 : Byte).toNat ∧
      ack[0]? ≠ some 0x41 ∧ ack[6]? ≠ some 0x02 ∧ ack[7]? ≠ some 0x75 ∧
      look (fun t => t.res.st) (exec (.verify 8 ack) State.reset) = some .ok ∧
      (look (fun t => t.res.st) (exec (.verify 8 (ack.set 7 0x75)) State.reset)).isSome := by decide

/-- (a) at both limits of a byte, (b) two orders, (c) a change of one. -/
theorem witness_PairedCorruptionsAreNotDetected :
    let covered : List Byte := [0xFE, 0x01]
    computed (covered ++ [0x00, 0xFF]) = stored (covered ++ [0x00, 0xFF]) ∧ covered[0]? = some 0xFE ∧
      covered[1]? = some 0x01 ∧ (0xFE : Byte).toNat + 1 ≤ 255 ∧ 1 ≤ (0x01 : Byte).toNat ∧
      ([0x01, 0xFE] : List Byte).Perm covered ∧ sum16 [0xFF, 0x01] = sum16 covered + 1 ∧
      be16 0x01 0x00 = be16 0x00 0xFF + 1 := by decide

theorem witness_SumsStayBelowTheModulus : (List.replicate 30 (0xFF : Byte)).length + 2 ≤ 32 := by decide

theorem witness_CommandChecksumRange :
    State.reset.rs = .idle ∧ ∃ t, exec (.enc 0xFF 0xFFFF) State.reset = .next t := ⟨rfl, _, rfl⟩

theorem witness_EncThenVerifyIsOk : State.reset.rs = .idle := rfl

end Sys2Proof.Tests
end

section
/-! PROOFS. The family 30_encoding.md: which requests R76 refuses, told by the decoder, and what an idle block does with
a request of each kind. -/

namespace Sys2Proof

/-! ### The bits of `w[7:4]` that SYNC reads (R73) -/

theorem extractLsb'_midBits (r : Request) {k n : Nat} (h : k + n ≤ 4) :
    r.midBits.extractLsb' k n = r.word.extractLsb' (4 + k) n := by
  ext i hi
  have hk : k + i < 4 := by omega
  simp [Request.midBits, hk, Nat.add_assoc]

theorem midBits_reserved (r : Request) : r.midBits.extractLsb' 1 3 = r.word.extractLsb' 5 3 :=
  extractLsb'_midBits r (by decide)

theorem midBits_pol (r : Request) : r.midBits.extractLsb' 0 1 = r.word.extractLsb' 4 1 :=
  extractLsb'_midBits r (by decide)

/-- R76 in the fields that the decoder reads (R70). -/
theorem illegalRequest_iff_fields (r : Request) :
    Machine.illegalRequest r ↔
      (r.opBits ≠ 1 ∧ r.opBits ≠ 2 ∧ r.opBits ≠ 3) ∨
        (r.opBits = 1 ∧
          (r.midBits.extractLsb' 1 3 ≠ 0 ∨ r.arg16 ≠ 0 ∨ r.arg8.toNat < 6 ∨ 32 < r.arg8.toNat)) ∨
        (r.opBits = 2 ∧ r.midBits ≠ 0) ∨
        (r.opBits = 3 ∧
          (r.midBits ≠ 0 ∨ r.arg16 ≠ 0 ∨ r.arg8.toNat < 2 ∨ 32 < r.arg8.toNat ∨
            r.ops.length ≠ r.arg8.toNat)) := by
  rw [midBits_reserved]
  rfl

/-! ### The limits of R76, where they are not met -/

/-- The limit on E, which `legalLen` and the two SYNC rows of `wellFormed` share (R76.2). -/
theorem legalLen_eq_false (e : Byte) :
    Machine.legalLen e = false ↔ e.toNat < 6 ∨ 32 < e.toNat := by
  rw [Machine.legalLen, decide_eq_false_iff_not, Config.eMin, Config.bufSize]
  omega

@[simp] theorem wellFormed_syncS_eq_false (e : Byte) :
    (Instr.syncS e).wellFormed = false ↔ e.toNat < 6 ∨ 32 < e.toNat := legalLen_eq_false e

@[simp] theorem wellFormed_syncT_eq_false (e : Byte) :
    (Instr.syncT e).wellFormed = false ↔ e.toNat < 6 ∨ 32 < e.toNat := legalLen_eq_false e

@[simp] theorem wellFormed_enc (code : Byte) (payload : Half) : (Instr.enc code payload).wellFormed = true := rfl

@[simp] theorem wellFormed_verify_eq_false (n : Byte) (ops : List Byte) :
    (Instr.verify n ops).wellFormed = false ↔ n.toNat < 2 ∨ 32 < n.toNat ∨ ops.length ≠ n.toNat := by
  rw [Instr.wellFormed, decide_eq_false_iff_not, Config.vMax]
  omega

/-! ### What the decoder answers, said once -/

/-- Everything the decoder can answer on `r`: no row, and R76 then calls `r` illegal; or one of the four base rows, each
with the fixed bits of its mask (R92) and the operands of R78. -/
inductive Decoded (r : Request) : Except DecodeRefusal Instr → Prop
  /-- R76.1, and the reserved bits of R76.2 to R76.4 -/
  | noRow (e : DecodeRefusal) (h : Machine.illegalRequest r) : Decoded r (.error e)
  /-- R73 with POL = 0 -/
  | syncS (hop : r.opBits = 1) (hmid : r.midBits.extractLsb' 1 3 = 0) (harg : r.arg16 = 0)
      (hpol : r.word.extractLsb' 4 1 = 0) : Decoded r (.ok (.syncS r.arg8))
  /-- R73 with POL = 1 -/
  | syncT (hop : r.opBits = 1) (hmid : r.midBits.extractLsb' 1 3 = 0) (harg : r.arg16 = 0)
      (hpol : r.word.extractLsb' 4 1 = 1) : Decoded r (.ok (.syncT r.arg8))
  /-- R74 -/
  | enc (hop : r.opBits = 2) (hmid : r.midBits = 0) : Decoded r (.ok (.enc r.arg8 r.arg16))
  /-- R75 -/
  | verify (hop : r.opBits = 3) (hmid : r.midBits = 0) (harg : r.arg16 = 0) :
    Decoded r (.ok (.verify r.arg8 r.ops))

theorem decode_decoded (r : Request) : Decoded r (decode r) := by
  unfold decode
  rw [midBits_pol]
  have illegal := (illegalRequest_iff_fields r).mpr
  split
  next hop =>
    split
    next hmid => exact .noRow _ (illegal (.inr (.inl ⟨hop, .inl hmid⟩)))
    next hmid =>
      split
      next harg => exact .noRow _ (illegal (.inr (.inl ⟨hop, .inr (.inl harg)⟩)))
      next harg =>
        split
        next hpol => exact .syncS hop (not_not.mp hmid) (not_not.mp harg) hpol
        next hpol =>
          exact .syncT hop (not_not.mp hmid) (not_not.mp harg) ((BitVec.eq_zero_or_eq_one _).resolve_left hpol)
  next hop1 =>
    split
    next hop =>
      split
      next hmid => exact .noRow _ (illegal (.inr (.inr (.inl ⟨hop, hmid⟩))))
      next hmid => exact .enc hop (not_not.mp hmid)
    next hop2 =>
      split
      next hop =>
        split
        next hmid => exact .noRow _ (illegal (.inr (.inr (.inr ⟨hop, .inl hmid⟩))))
        next hmid =>
          split
          next harg => exact .noRow _ (illegal (.inr (.inr (.inr ⟨hop, .inr (.inl harg)⟩))))
          next harg => exact .verify hop (not_not.mp hmid) (not_not.mp harg)
      next hop3 => exact .noRow _ (illegal (.inl ⟨hop1, hop2, hop3⟩))

/-- On a row of the table, R76 leaves the limits on E, n and the operand count, which are those of `wellFormed`. -/
theorem Decoded.illegalRequest_iff {r : Request} {i : Instr} (h : Decoded r (.ok i)) :
    Machine.illegalRequest r ↔ i.wellFormed = false := by
  rw [illegalRequest_iff_fields]
  cases h with
  | syncS hop hmid harg _ => simp [hop, hmid, harg]
  | syncT hop hmid harg _ => simp [hop, hmid, harg]
  | enc hop hmid => simp [hop, hmid]
  | verify hop hmid harg => simp [hop, hmid, harg]

theorem illegalRequest_iff_of_decode {r : Request} {i : Instr} (h : decode r = .ok i) :
    Machine.illegalRequest r ↔ i.wellFormed = false :=
  Decoded.illegalRequest_iff (h ▸ decode_decoded r)

/-- A request that R76 does not name selects a row, within the row's limits. -/
theorem exists_decode_of_legal {r : Request} (h : ¬ Machine.illegalRequest r) :
    ∃ i, decode r = .ok i ∧ i.wellFormed = true := by
  cases hd : decode r with
  | ok i =>
    rw [illegalRequest_iff_of_decode hd, Bool.not_eq_false] at h
    exact ⟨i, rfl, h⟩
  | error e =>
    have hr := decode_decoded r
    rw [hd] at hr
    cases hr with
    | noRow _ hi => exact absurd hi h

theorem decodeLegal_of_illegal {r : Request} (h : Machine.illegalRequest r) : decodeLegal r = none := by
  unfold decodeLegal
  split
  next i hd => simp [(illegalRequest_iff_of_decode hd).mp h]
  next => rfl

/-- The total decoder answers every legal request, with what the decoder says of it. -/
theorem decodeLegal_of_legal {r : Request} (h : ¬ Machine.illegalRequest r) :
    ∃ i, decodeLegal r = some i ∧ Decoded r (.ok i) := by
  obtain ⟨i, hd, hw⟩ := exists_decode_of_legal h
  exact ⟨i, by simp [decodeLegal, hd, hw], hd ▸ decode_decoded r⟩

/-- Settles O4: the case split of the decoder; on a legal request OP and POL leave one row. -/
theorem requestDecoderIsTotal : Obligations.RequestDecoderIsTotal := by
  intro r
  refine ⟨decodeLegal_of_illegal, fun hr => ?_⟩
  obtain ⟨i, hi, hd⟩ := decodeLegal_of_legal hr
  rw [hi]
  change (r.opBits = 1 → _) ∧ (r.opBits = 1 → _) ∧ (r.opBits = 2 → _) ∧ (r.opBits = 3 → _)
  cases hd with
  | syncS hop _ _ hpol => simp [hop, hpol, Request.arg8]
  | syncT hop _ _ hpol => simp [hop, hpol, Request.arg8]
  | enc hop _ => simp [hop, Request.arg8, Request.arg16]
  | verify hop _ _ => simp [hop, Request.arg8]

end Sys2Proof

namespace Sys2Proof.Machine

/-! ### What an idle block does with each instruction -/

/-- The state that an idle block reaches by accepting the instruction (R100, R145, R160). -/
def acceptedState : Instr → State → State
  | .syncS e => startSync .strict e
  | .syncT e => startSync .tolerant e
  | .enc code payload => encodeCommand code payload
  | .verify n ops => verifyBytes n ops
  | .readData => startSync .strict 32
  | .readStatus => startSync .strict 8
  | .setPassive => encodeCommand 0xE1 0
  | .setActive => encodeCommand 0xE1 1
  | .reqRead => encodeCommand 0xE2 0
  | .sleep => encodeCommand 0xE4 0
  | .wake => encodeCommand 0xE4 1

/-- An idle block accepts exactly the instructions within the limits of R76. -/
theorem exec_idle (i : Instr) {s : State} (h : s.rs = .idle) :
    exec i s = .next (if i.wellFormed then acceptedState i s else refuseRequest s) := by
  cases i <;> exact takeRequest_idle h

theorem takeWord_of_illegal {r : Request} {s : State} (hs : s.rs = .idle) (h : illegalRequest r) :
    takeWord r s = .next (afterRefusal s) := by
  unfold takeWord
  split
  next i hd =>
    rw [exec_idle i hs, (illegalRequest_iff_of_decode hd).mp h]
    rfl
  next => rfl

theorem takeWord_of_legal {r : Request} {s : State} (hs : s.rs = .idle) (h : ¬ illegalRequest r) :
    ∃ i, decode r = .ok i ∧ takeWord r s = .next (acceptedState i s) := by
  obtain ⟨i, hd, hw⟩ := exists_decode_of_legal h
  exact ⟨i, hd, by simp [takeWord, hd, exec_idle i hs, hw]⟩

/-- An idle block that no host action precedes takes the request it finds presented. -/
theorem step_takes_request {s : State} {r : Request} (hs : s.rs = .idle) (hh : s.host = []) (hr : s.req = some r) :
    step s = takeWord r { s with req := none } := by
  rw [step_block hh]
  unfold blockStep
  rw [hs, hr]

/-- A checksum comparison never reports a refusal (R182). -/
theorem verdict_ne_illegalRequest (csc csr : Half) : verdict csc csr ≠ .illegalRequest := by
  unfold verdict
  split <;> decide

/-- An accepted SYNC runs; an accepted ENC or VERIFY has completed, as itself and with no refusal. -/
theorem acceptedState_runs_or_completed (i : Instr) (s : State) :
    (acceptedState i s).rs = .hunt0 ∨
      ((acceptedState i s).rs = .idle ∧ (acceptedState i s).res.rop ≠ .none ∧
        (acceptedState i s).res.st ≠ .illegalRequest) := by
  have command (c : Byte) (p : Half) : (encodeCommand c p s).rs = .idle ∧ (encodeCommand c p s).res.rop ≠ .none ∧
      (encodeCommand c p s).res.st ≠ .illegalRequest := by simp [Result.blank]
  cases i with
  | syncS | syncT | readData | readStatus => exact .inl rfl
  | enc | setPassive | setActive | reqRead | sleep | wake => exact .inr (command _ _)
  | verify n ops => exact .inr (by simp [acceptedState, Result.blank, verdict_ne_illegalRequest])

/-- Settles O6: the step takes the request, and `exec` refuses it or accepts it by the limits of R76. -/
theorem refusedExactlyWhenIllegal : Obligations.RefusedExactlyWhenIllegal := by
  intro s r hs hh hr
  rw [step_takes_request hs hh hr]
  refine ⟨fun hi => takeWord_of_illegal hs hi, fun hl => ?_⟩
  obtain ⟨i, _, ht⟩ := takeWord_of_legal (s := { s with req := none }) hs hl
  exact ⟨_, ht, acceptedState_runs_or_completed i _⟩

end Sys2Proof.Machine
end

section
/-! PROOFS. The family 40_receive.md: the steps of the running SYNC in the spec's words, and what an OK result
guarantees. -/

namespace Sys2Proof.Machine

/-! ### The step of a running SYNC that no host action precedes -/

/-- A move of the running SYNC is what the step of the machine does. -/
theorem step_of_syncMove {s t : State} (hh : s.host = []) (hs : s.rs ≠ .idle) (h : SyncMove s t) :
    step s = .next t := by
  rw [step_block hh, blockStep_busy hs, syncStep_of_move h]

/-- The step of the machine is a move of the running SYNC. -/
theorem syncMove_of_step {s t : State} (hh : s.host = []) (hs : s.rs ≠ .idle) (h : step s = .next t) :
    SyncMove s t := by
  rw [step_block hh, blockStep_busy hs] at h
  exact syncStep_move h

/-- Settles O19: the two events of `RxRead()` that end the SYNC, at any read. `completedSync`, here and below, is
`finishSync` with the record written out (R110). -/
theorem transportEventsEndTheSync : Obligations.TransportEventsEndTheSync := by
  intro s rest hread hh
  exact ⟨fun hx => step_of_syncMove hh hread.1 (.timeout hread rest hx),
    fun hx => step_of_syncMove hh hread.1 (.error hread rest hx)⟩

/-- Settles O20: the budget check of `HUNT0`, then its byte. -/
theorem huntZeroStep : Obligations.HuntZeroStep := by
  intro s hr hh
  have hs : s.rs ≠ .idle := by simp [hr]
  exact ⟨fun hb => step_of_syncMove hh hs (.budget hr hb),
    fun b rest hb hx => step_of_syncMove hh hs (.hunt0 hr hb b rest hx)⟩

/-! ### Verification (R109) -/

/-- `readFrom` gives the bytes that `read` gives one by one. -/
theorem readFrom_of_map_read {m : Memory} {a k : Nat} {bs : List Byte}
    (h : (List.range' a k).map (Memory.read m) = bs.map some) : Memory.readFrom m a k = some bs := by
  induction k generalizing a bs with
  | zero =>
    obtain rfl : bs = [] := by simpa using h.symm
    rfl
  | succ k ih =>
    cases bs with
    | nil => simp [List.range'_succ] at h
    | cons b bs =>
      rw [List.range'_succ, List.map_cons, List.map_cons, List.cons.injEq] at h
      obtain ⟨hb, hbs⟩ := h
      rw [Memory.readFrom, hb, ih hbs]

theorem byteSum_eq_sum (s : List Byte) : byteSum s = (s.map BitVec.toNat).sum := by
  induction s with
  | nil => rfl
  | cons b s ih => rw [byteSum_cons, ih, List.map_cons, List.sum_cons]

theorem sum16_eq_sum (s : List Byte) : sum16 s = BitVec.ofNat 16 (s.map BitVec.toNat).sum := by
  rw [sum16, byteSum_eq_sum]

theorem verdict_eq_ok {csc csr : Half} : verdict csc csr = .ok ↔ csc = csr := by
  simp [verdict]

/-- Settles O25: the stored bytes end in the two bytes of the stored checksum, and `computed` and `stored` are the two
values that R109 compares. -/
theorem verificationStep : Obligations.VerificationStep := by
  intro s covered h l hr hh hT hreads
  dsimp only
  have hframe : Memory.readFrom s.fbuf 0 s.T.toNat = some (covered ++ [h, l]) :=
    readFrom_of_map_read (by rwa [← List.range_eq_range'])
  have hmove := SyncMove.verified hr hT _ hframe (by simp)
  rw [computed_append_two, stored_append_two, sum16_eq_sum] at hmove
  exact step_of_syncMove hh (by simp [hr]) hmove

/-! ### What an OK result of a SYNC guarantees (R118) -/

/-- A SYNC completes with OK only by verification of a frame whose two checksums agree. -/
theorem SyncMove.verified_of_ok {s t : State} (h : SyncMove s t) (hs : s.rs ≠ .idle) (ht : t.rs = .idle)
    (hok : t.res.st = .ok) :
    s.rs = .body ∧ s.idx.toNat = s.T.toNat ∧ ∃ frame, Memory.readFrom s.fbuf 0 s.T.toNat = some frame ∧
      computed frame = stored frame ∧ t = finishSync .ok (some (computed frame, stored frame)) s := by
  cases h with
  | verified hr hT frame hf hl =>
    have hv : verdict (computed frame) (stored frame) = .ok := hok
    exact ⟨hr, hT, frame, hf, verdict_eq_ok.mp hv, by rw [hv]⟩
  -- the other completions report another status
  | budget | timeout | error | exhausted | mismatch => simp at hok
  -- every other move leaves the operation running
  | notBusy | unanswered => exact absurd ht hs
  | hunt0 _ _ b | hunt1 _ b =>
    rw [chargeByte_rs] at ht
    split at ht <;> cases ht
  | lock | lenHi | length => cases ht
  | body hr => exact absurd ht hs

/-- The counters in `BODY` (R30, R105 to R108). -/
theorem RunInv.counters_body {s : State} (h : RunInv s) (hr : s.rs = .body) :
    4 ≤ s.idx.toNat ∧ s.idx.toNat ≤ s.T.toNat ∧ s.T.toNat ≤ s.E.toNat ∧
      s.pnrx.toNat + 1 = s.scan.toNat + s.idx.toNat ∧ s.scan.toNat ≤ scanBudget s.E := by
  simpa only [countersInv, hr] using h.counters

/-- The frame and the length registers in `BODY` (R104 to R107). -/
theorem RunInv.content_body {s : State} (h : RunInv s) (hr : s.rs = .body) :
    (∃ h l, (bytesOf s.fbuf).take 4 = [Config.sync0, Config.sync1, h, l] ∧ s.lenf = be16 h l) ∧
      s.plenf = some s.lenf ∧ s.pmatch = some (decide (s.lenf.toNat + 4 = s.E.toNat)) ∧
      (s.pol = .strict → s.lenf.toNat + 4 = s.E.toNat ∧ s.T.toNat = s.E.toNat) ∧
      (s.pol = .tolerant → s.T.toNat = min (s.lenf.toNat + 4) s.E.toNat) := by
  simpa only [contentInv, hr] using h.content

/-- The buffer of a running operation is filled as far as `idx` says (R32). -/
theorem RunInv.filled_running {s : State} (h : RunInv s) (hs : s.rs ≠ .idle) : filledTo s.fbuf s.idx.toNat :=
  (h.busyFilled (by simpa [State.busy] using hs)).1

/-- Settles O44: OK comes from verification alone, and in `BODY` with `idx = T` the invariant says what the `T` verified
bytes and the length registers are. -/
theorem okMeansAVerifiedFrame : Obligations.OkMeansAVerifiedFrame := by
  intro s t hinv hbusy hh hstep hidle hok
  have hs : s.rs ≠ .idle := by simpa [State.busy] using hbusy
  have ht : t.rs = .idle := by simpa [State.busy] using hidle
  obtain ⟨hr, hT, frame, hf, hsum, rfl⟩ := (syncMove_of_step hh hs hstep).verified_of_ok hs ht hok
  have hfill := hinv.filled_running hs
  obtain rfl : bytesOf s.fbuf = frame := by
    rw [← hT, readFrom_whole hfill] at hf
    exact Option.some.inj hf
  obtain ⟨hfour, -, -, -, -⟩ := hinv.counters_body hr
  obtain ⟨⟨h, l, hhead, hlenf⟩, hplenf, hpmatch, hstrict, -⟩ := hinv.content_body hr
  refine ⟨hfour, hT, h, l, bytesOf s.fbuf, length_bytesOf hfill, fun i _ => read_filled hfill i, hhead,
    hlenf ▸ hplenf, hsum, fun hpol => ?_⟩
  obtain ⟨hlen, hTE⟩ := hstrict hpol
  exact ⟨BitVec.eq_of_toNat_eq (hT.trans hTE), hlenf ▸ hlen, by simpa [hlen] using hpmatch⟩

end Sys2Proof.Machine
end

section
/-! PROOFS. The family 41_checksum.md: what the checksum of a list depends on, the comparison with the stored bytes, and
VERIFY. -/

namespace Sys2Proof

/-! ### The word of VERIFY (R75) -/

/-- The four fields of a request word are independent (R70). -/
theorem requestWord_inj {a a' : Half} {b b' : Byte} {m m' o o' : BitVec 4} :
    requestWord a b m o = requestWord a' b' m' o' ↔ a = a' ∧ b = b' ∧ m = m' ∧ o = o' := by
  refine ⟨fun h => ?_, by rintro ⟨rfl, rfl, rfl, rfl⟩; rfl⟩
  have ha := congrArg (fun w => Request.arg16 ⟨w, []⟩) h
  have hb := congrArg (fun w => Request.arg8 ⟨w, []⟩) h
  have hm := congrArg (fun w => Request.midBits ⟨w, []⟩) h
  have ho := congrArg (fun w => Request.opBits ⟨w, []⟩) h
  simp only [arg16_requestWord, arg8_requestWord, midBits_requestWord, opBits_requestWord] at ha hb hm ho
  exact ⟨ha, hb, hm, ho⟩

/-- What the mask of SYNC and VERIFY tells of a request: every field but ARG8 (R92). -/
theorem word_and_mask_eq_iff (r : Request) (a : Half) (m o : BitVec 4) :
    r.word &&& 0xFFFF00FF = requestWord a 0 m o ↔ r.arg16 = a ∧ r.midBits = m ∧ r.opBits = o := by
  rw [← requestWord_fields r, requestWord_and_mask, requestWord_inj]
  simp

theorem decode_of_verify_match {r : Request} (h : r.word &&& 0xFFFF00FF = 0x00000003) :
    decode r = .ok (.verify r.arg8 r.ops) := by
  obtain ⟨harg, hmid, hop⟩ := (word_and_mask_eq_iff r 0 0 3).mp h
  simp [decode, harg, hmid, hop]

end Sys2Proof

namespace Sys2Proof.Machine

/-! ### What a byte sum depends on (R142) -/

theorem sum16_eq_of_perm {a b : List Byte} (h : a.Perm b) : sum16 a = sum16 b := by
  rw [sum16_eq_sum, sum16_eq_sum, (h.map BitVec.toNat).sum_eq]

/-- Adding the bytes one by one into a 16-bit accumulator gives their sum. -/
theorem foldl_add_eq_sum16 (a : List Byte) : a.foldl (fun (acc : Half) b => acc + b.setWidth 16) 0 = sum16 a := by
  induction a using List.reverseRecOn with
  | nil => rfl
  | append_singleton a b ih => rw [List.foldl_concat, ih, sum16_append_one]

/-- Settles O53: a sum does not depend on the order of its summands, and each byte adds its own value mod 65536. -/
theorem checksumIgnoresOrder : Obligations.ChecksumIgnoresOrder :=
  ⟨fun _ _ h => sum16_eq_of_perm h, foldl_add_eq_sum16⟩

/-! ### The comparison with the stored bytes (R143) -/

/-- A 16-bit value is the big-endian value of two bytes exactly when these are its high and its low byte. -/
theorem eq_be16_iff (v : Half) (h l : Byte) : v = be16 h l ↔ hi8 v = h ∧ lo8 v = l := by
  constructor
  · rintro rfl
    exact ⟨hi8_be16 h l, lo8_be16 h l⟩
  · rintro ⟨rfl, rfl⟩
    exact (be16_hi8_lo8 v).symm

/-- Settles O54: `stored` is the big-endian value of the final two bytes. -/
theorem verdictComparesBytewise : Obligations.VerdictComparesBytewise := by
  intro covered h l
  rw [stored_append_two]
  exact eq_be16_iff _ h l

/-- A list verifies when the sum of its covered bytes is the value of its final two. -/
theorem computed_eq_stored_iff (covered : List Byte) (h l : Byte) :
    computed (covered ++ [h, l]) = stored (covered ++ [h, l]) ↔ sum16 covered = be16 h l := by
  rw [computed_append_two, stored_append_two]

/-! ### The blind spots (R147) -/

/-- Replacing one byte changes the sum by the difference of the two bytes. -/
theorem byteSum_set {s : List Byte} {i : Nat} {x : Byte} (h : s[i]? = some x) (y : Byte) :
    byteSum (s.set i y) + x.toNat = byteSum s + y.toNat := by
  induction s generalizing i with
  | nil => simp at h
  | cons b s ih =>
    cases i with
    | zero =>
      obtain rfl : b = x := by simpa using h
      simp only [List.set_cons_zero, byteSum_cons]
      omega
    | succ i =>
      have hset := ih (i := i) (by simpa using h)
      simp only [List.set_cons_succ, byteSum_cons]
      omega

/-- Raising one byte and lowering another by the same amount, neither of them leaving 0..255, keeps the sum. -/
theorem byteSum_raise_lower {s : List Byte} {i j k : Nat} {x y : Byte} (hij : i ≠ j) (hx : s[i]? = some x)
    (hy : s[j]? = some y) (hxk : x.toNat + k ≤ 255) (hyk : k ≤ y.toNat) :
    byteSum ((s.set i (BitVec.ofNat 8 (x.toNat + k))).set j (BitVec.ofNat 8 (y.toNat - k))) = byteSum s := by
  have hraise := byteSum_set hx (BitVec.ofNat 8 (x.toNat + k))
  have hlower := byteSum_set (s := s.set i (BitVec.ofNat 8 (x.toNat + k)))
    ((List.getElem?_set_ne hij).trans hy) (BitVec.ofNat 8 (y.toNat - k))
  rw [BitVec.toNat_ofNat, Nat.mod_eq_of_lt (by omega)] at hraise hlower
  omega

/-- Settles O56: in (a) and (b) the sum of the covered bytes stays, in (c) both sides change by the same amount. -/
theorem pairedCorruptionsAreNotDetected : Obligations.PairedCorruptionsAreNotDetected := by
  intro covered h l hvalid
  rw [computed_eq_stored_iff] at hvalid
  refine ⟨fun i j k x y hij hx hy hxk hyk => ?_, fun c hc => ?_, fun c h' l' d hc hstored => ?_⟩
  · dsimp only
    rw [computed_eq_stored_iff, sum16, byteSum_raise_lower hij hx hy hxk hyk]
    exact hvalid
  · rw [computed_eq_stored_iff, sum16_eq_of_perm hc, hvalid]
  · rw [computed_eq_stored_iff, hc, hstored, hvalid]

/-! ### VERIFY (R145) -/

/-- VERIFY on a complete list: the operand bytes that it latches and compares are the ones it is given. -/
theorem verifyBytes_of_length {n : Byte} {ops : List Byte} (h : ops.length = n.toNat) (s : State) :
    verifyBytes n ops s =
      { s with
        op := .verify, n := n.setWidth 6, vop := ops ++ s.vop.drop n.toNat, rs := .idle
        res := { st := verdict (computed ops) (stored ops), rop := .verify, nrx := 0, lenf_r := none,
                 lmatch := none, csc := some (computed ops), csr := some (stored ops) } } := by
  rw [verifyBytes, h, List.take_left' h]
  rfl

/-- An idle block accepts a VERIFY of `n` bytes, `2 ≤ n ≤ 32` (R76.4). -/
theorem exec_verify_accepted {n : Byte} {ops : List Byte} {s : State} (hs : s.rs = .idle) (hlen : ops.length = n.toNat)
    (h2 : 2 ≤ n.toNat) (h32 : n.toNat ≤ 32) : exec (.verify n ops) s = .next (verifyBytes n ops s) := by
  have hwf : (Instr.verify n ops).wellFormed = true := decide_eq_true ⟨h2, h32, hlen⟩
  rw [exec_idle _ hs, hwf]
  rfl

/-- Settles O17: the word by its mask, then the two values compared, each in the spec's words. -/
theorem verifyComparesTheChecksum : Obligations.VerifyComparesTheChecksum := by
  refine ⟨fun r => decode_of_verify_match, fun s n covered h l => ⟨takeRequest_busy, fun hs hn h32 => ?_⟩⟩
  have hlen : (covered ++ [h, l]).length = n.toNat := by simpa using hn
  rw [exec_verify_accepted hs hlen (by omega) h32, verifyBytes_of_length hlen, computed_append_two,
    stored_append_two, sum16_eq_sum]
  rfl

/-! ### The sync bytes (R148) -/

/-- Settles O57: the sum of the covered bytes begins with the two sync bytes. -/
theorem syncBytesContribution : Obligations.SyncBytesContribution := by
  intro covered h l
  have hsync : (0x42 : Byte) :: 0x4D :: (covered ++ [h, l]) = (0x42 :: 0x4D :: covered) ++ [h, l] := rfl
  rw [hsync, computed_append_two, sum16_eq_sum, List.map_cons, List.map_cons, List.sum_cons, List.sum_cons,
    ← Nat.add_assoc]
  rfl

end Sys2Proof.Machine
end

section
/-! PROOFS. The family 42_command.md: the command frame and its checksum, what ENC leaves in the state, and the round
trip through VERIFY. -/

namespace Sys2Proof

/-! ### The word of ENC (R74) -/

/-- What the mask of ENC tells of a request: OP and `w[7:4]` (R92). -/
theorem word_and_low_eq_iff (r : Request) (m o : BitVec 4) :
    r.word &&& 0x000000FF = requestWord 0 0 m o ↔ r.midBits = m ∧ r.opBits = o := by
  rw [← requestWord_fields r, requestWord_and_low, requestWord_inj]
  simp

theorem decode_of_enc_match {r : Request} (h : r.word &&& 0x000000FF = 0x00000002) :
    decode r = .ok (.enc r.arg8 r.arg16) := by
  obtain ⟨hmid, hop⟩ := (word_and_low_eq_iff r 0 2).mp h
  simp [decode, hmid, hop]

end Sys2Proof

namespace Sys2Proof.Machine

/-! ### Reading back a run of writes -/

/-- A run of writes reads back as the bytes written. -/
theorem readFrom_writeAll (m : Memory) (a : Nat) (bs : List Byte) :
    Memory.readFrom (Memory.writeAll m a bs) a bs.length = some bs := by
  apply readFrom_of_map_read
  refine List.ext_getElem (by simp) fun i hi _ => ?_
  have hlt : i < bs.length := by simpa using hi
  simp [read_writeAll, hlt]

/-! ### The command frame and its checksum (R84, R160, R161) -/

/-- The five bytes of a command frame that its checksum covers. -/
def commandCovered (code : Byte) (payload : Half) : List Byte :=
  [Config.sync0, Config.sync1, code, hi8 payload, lo8 payload]

/-- `C` of R160, the checksum of a command frame. -/
def commandChecksum (code : Byte) (payload : Half) : Half := sum16 (commandCovered code payload)

theorem commandFrame_eq (code : Byte) (payload : Half) :
    commandFrame code payload =
      commandCovered code payload ++ [hi8 (commandChecksum code payload), lo8 (commandChecksum code payload)] := rfl

theorem byteSum_commandCovered (code : Byte) (payload : Half) :
    byteSum (commandCovered code payload) = 0x8F + code.toNat + (hi8 payload).toNat + (lo8 payload).toNat := by
  have hsync : Config.sync0.toNat + Config.sync1.toNat = 0x8F := rfl
  simp only [commandCovered, byteSum_cons, byteSum_nil]
  omega

theorem commandChecksum_eq_ofNat (code : Byte) (payload : Half) :
    commandChecksum code payload =
      BitVec.ofNat 16 (0x8F + code.toNat + (hi8 payload).toNat + (lo8 payload).toNat) := by
  rw [commandChecksum, sum16, byteSum_commandCovered]

/-- Four summands of at most one byte each stay below 65536, so the sum is not reduced (R161). -/
theorem toNat_commandChecksum (code : Byte) (payload : Half) :
    (commandChecksum code payload).toNat = 0x8F + code.toNat + payload.toNat / 256 + payload.toNat % 256 := by
  have hcode := code.isLt
  have hpayload := payload.isLt
  rw [commandChecksum, toNat_sum16, byteSum_commandCovered, toNat_hi8, toNat_lo8]
  omega

/-- The checksum of a command frame is the one stored in its final two bytes. -/
theorem computed_commandFrame (code : Byte) (payload : Half) :
    computed (commandFrame code payload) = commandChecksum code payload := by
  rw [commandFrame_eq, computed_append_two, commandChecksum]

theorem stored_commandFrame (code : Byte) (payload : Half) :
    stored (commandFrame code payload) = commandChecksum code payload := by
  rw [commandFrame_eq, stored_append_two, be16_hi8_lo8]

/-! ### What ENC does (R160) -/

theorem exec_enc_idle (code : Byte) (payload : Half) {s : State} (hs : s.rs = .idle) :
    exec (.enc code payload) s = .next (encodeCommand code payload s) := exec_idle _ hs

theorem encodeCommand_csc (code : Byte) (payload : Half) (s : State) :
    (encodeCommand code payload s).res.csc = some (commandChecksum code payload) := rfl

/-- ENC fills `cbuf` from index 0 with the frame and keeps whatever stands after it. -/
theorem read_encodeCommand_cbuf (code : Byte) (payload : Half) (s : State) (i : Nat) :
    Memory.read (encodeCommand code payload s).cbuf i =
      if i < 7 then (commandFrame code payload)[i]? else Memory.read s.cbuf i := by
  simp [read_writeAll, commandFrame]

theorem encodeCommand_commandBuilt (code : Byte) (payload : Half) (s : State) :
    commandBuilt code payload (commandFrame code payload) (commandChecksum code payload) s
      (encodeCommand code payload s) := by
  refine ⟨fun i hi => ?_, fun i hi => ?_, rfl⟩
  · rw [read_encodeCommand_cbuf, if_pos hi]
  · rw [read_encodeCommand_cbuf, if_neg (Nat.not_lt.mpr hi)]

/-- Settles O15: the word by its mask, a busy block takes no request, and `encodeCommand` writes the frame of R160. -/
theorem encBuildsTheCommandFrame : Obligations.EncBuildsTheCommandFrame := by
  refine ⟨fun r => decode_of_enc_match, fun s code payload => ⟨takeRequest_busy, fun hs => ?_⟩⟩
  have hbuilt := encodeCommand_commandBuilt code payload s
  rw [commandFrame_eq, commandChecksum_eq_ofNat] at hbuilt
  exact ⟨_, exec_enc_idle code payload hs, hbuilt⟩

/-- The high checksum byte of a command frame (R161). -/
theorem read_encodeCommand_five (code : Byte) (payload : Half) (s : State) :
    Memory.read (encodeCommand code payload s).cbuf 5 = some (hi8 (commandChecksum code payload)) :=
  read_encodeCommand_cbuf code payload s 5

/-- Settles O59: `C` is the exact sum, so its bounds are those of three free bytes, and the two ends are taken where all
three are 0 and where all three are 255. -/
theorem commandChecksumRange : Obligations.CommandChecksumRange := by
  constructor
  · intro s t code payload hs ht
    obtain rfl : encodeCommand code payload s = t :=
      Host.Outcome.next.inj ((exec_enc_idle code payload hs).symm.trans ht)
    have hcode := code.isLt
    have hpayload := payload.isLt
    have hsum := toNat_commandChecksum code payload
    refine ⟨_, _, encodeCommand_csc code payload s, by omega, by omega, hsum,
      read_encodeCommand_five code payload s, ?_⟩
    rw [toNat_hi8]
    omega
  · intro s hs
    have hmin : commandChecksum 0 0 = 0x008F := by decide
    have hmax : commandChecksum 0xFF 0xFFFF = 0x038C := by decide
    exact ⟨⟨_, exec_enc_idle _ _ hs, hmin ▸ encodeCommand_csc 0 0 s⟩,
      ⟨_, exec_enc_idle _ _ hs, hmax ▸ encodeCommand_csc 0xFF 0xFFFF s⟩⟩

/-! ### Round trip through VERIFY (R162) -/

/-- Settles O60: VERIFY compares the sum of the first five bytes with the value of the last two, and both are `C`. -/
theorem encThenVerifyIsOk : Obligations.EncThenVerifyIsOk := by
  intro s code payload hs
  have hlen : (commandFrame code payload).length = (7 : Byte).toNat := rfl
  refine ⟨_, commandFrame code payload, _, exec_enc_idle code payload hs, readFrom_writeAll s.cbuf 0 _,
    exec_verify_accepted (encodeCommand_rs code payload s) hlen (by decide) (by decide), ?_⟩
  rw [verifyBytes_of_length hlen, computed_commandFrame, stored_commandFrame, encodeCommand_csc]
  exact ⟨verdict_eq_ok.mpr rfl, rfl, rfl⟩

end Sys2Proof.Machine
end

section
/-! PROOFS. The family 60_exceptions.md: which statuses the block reports (R181 to R184). -/

namespace Sys2Proof.Machine

/-! ### Runs -/

/-- What every step keeps, every run keeps. -/
theorem run_keeps {P : State → Prop} (hstep : ∀ s t, P s → step s = .next t → P t) {k : Nat} {s t : State} (hs : P s)
    (h : run k s = .next t) : P t := by
  induction k generalizing s with
  | zero =>
    cases h
    exact hs
  | succ k ih =>
    unfold run at h
    split at h
    · exact ih (hstep s _ hs ‹_›) h
    · cases h
    · cases h

/-! ### INVALID_STATE is no status of a completion (R182, R184) -/

theorem verdict_ne_invalidState (csc csr : Half) : verdict csc csr ≠ .invalidState := by
  unfold verdict
  split <;> decide

/-- None of the record shapes of R182 has the reserved status. -/
theorem Result.wellShaped.st_ne_invalidState {r : Result} (h : r.wellShaped) : r.st ≠ .invalidState := by
  unfold Result.wellShaped at h
  split at h
  case h_1 =>
    obtain ⟨hst | hst, -⟩ := h <;> simp [hst]
  case h_2 =>
    obtain ⟨hst, -⟩ := h
    simp [hst]
  case h_3 =>
    obtain ⟨-, -, -, csc, csr, -, -, hst⟩ := h
    exact hst ▸ verdict_ne_invalidState csc csr
  case h_4 =>
    obtain ⟨-, -, ⟨-, -, hst | hst | ⟨hst, -⟩⟩ | ⟨csc, csr, -, -, hst, -⟩⟩ := h
    · simp [hst]
    · simp [hst]
    · simp [hst]
    · exact hst ▸ verdict_ne_invalidState csc csr

/-- A taken request keeps the record (SYNC), or completes with ILLEGAL_REQUEST, OK or a verdict. -/
theorem Taken.st_ne_invalidState {s t : State} (h : Taken s t) (hs : s.res.st ≠ .invalidState) :
    t.res.st ≠ .invalidState := by
  cases h with
  | sync => exact hs
  | refused | command => simp [Result.blank]
  | verify => simp [Result.blank, verdict_ne_invalidState]

/-- A move of the running SYNC keeps the record, or completes with a status of R101 to R106 or a verdict (R109). -/
theorem SyncMove.st_ne_invalidState {s t : State} (h : SyncMove s t) (hs : s.res.st ≠ .invalidState) :
    t.res.st ≠ .invalidState := by
  cases h with
  | notBusy | unanswered | hunt0 | lock | hunt1 | lenHi | length | body => exact hs
  | budget | timeout | error | exhausted | mismatch => simp
  | verified => simp [verdict_ne_invalidState]

theorem blockStep_st_ne_invalidState {s t : State} (h : blockStep s = .next t) (hs : s.res.st ≠ .invalidState) :
    t.res.st ≠ .invalidState := by
  rcases blockStep_cases h with ⟨-, hmove⟩ | ⟨-, -, rfl⟩ | ⟨hidle, r, -, htake⟩
  · exact hmove.st_ne_invalidState hs
  · exact hs
  · obtain ⟨u, hu, htaken⟩ := takeWord_taken r (s := { s with req := none }) hidle
    cases hu.symm.trans htake
    exact htaken.st_ne_invalidState hs

/-- The host publishes no record: it leaves the one there is, or resets it to NONE (R39). -/
theorem step_st_ne_invalidState {s t : State} (hs : s.res.st ≠ .invalidState) (h : step s = .next t) :
    t.res.st ≠ .invalidState := by
  cases step_move h with
  | present | read => exact hs
  | reset => simp [State.reset, Result.reset]
  | block rest t _ hb => exact blockStep_st_ne_invalidState hb hs

/-- Settles O39: of the invariant, a run needs only the shape of the record it starts with. -/
theorem invalidStateIsNeverReported : Obligations.InvalidStateIsNeverReported :=
  fun _ _ _ hinv hrun =>
    run_keeps (P := fun s => s.res.st ≠ .invalidState) (fun _ _ => step_st_ne_invalidState)
      hinv.record.st_ne_invalidState hrun

end Sys2Proof.Machine
end

section
/-! PROOFS. The family 70_reset_and_hazards.md: the host reads that are host faults (R205, R207). -/

namespace Sys2Proof.Machine

/-! ### What a host read answers -/

@[simp] theorem writtenOr_none (g : HostReg) : writtenOr g none = .error (.hostReadUnwritten g) := rfl

theorem bufferByte_unwritten (g : HostReg) {size i : Nat} {m : Memory} (hi : i < size) (hm : Memory.read m i = none) :
    bufferByte g size m i = .error (.hostReadUnwritten g) := by
  simp [bufferByte, hi, hm]

/-- `busy` is read in any state (R37, R205). -/
theorem hostValue_busy (s : State) : hostValue .busy s = .ok ((BitVec.ofBool s.busy).setWidth 16) := by
  simp [hostValue, idleValue]

theorem hostValue_of_busy {s : State} {g : HostReg} (hs : s.busy = true) (hg : g ≠ .busy) :
    hostValue g s = .error (.hostReadBusy g) := by
  simp [hostValue, hs, hg]

theorem hostValue_of_idle {s : State} (g : HostReg) (hs : s.busy = false) : hostValue g s = idleValue g s := by
  simp [hostValue, hs]

/-! ### The step of a host read (R57, R61) -/

theorem step_read {s : State} {g : HostReg} {rest : List HostAct} (hh : s.host = .read g :: rest) :
    step s = hostRead g { s with host := rest } := by
  simp only [step, totalStep, hh]

theorem step_read_ok {s : State} {g : HostReg} {rest : List HostAct} {v : BitVec 16} (hh : s.host = .read g :: rest)
    (hv : hostValue g s = .ok v) : step s = .next { s with host := rest, hostData := some v } := by
  rw [step_read hh, hostRead, hostValue_host, hv]

theorem step_read_error {s : State} {g : HostReg} {rest : List HostAct} {f : Fault} (hh : s.host = .read g :: rest)
    (hv : hostValue g s = .error f) : step s = .fault f := by
  rw [step_read hh, hostRead, hostValue_host, hv]

/-! ### The obligations -/

/-- Settles O31: of the registers, a busy block answers for `busy` alone. -/
theorem hostReadWhileBusyFaults : Obligations.HostReadWhileBusyFaults := by
  intro s g rest hs hh
  constructor
  · exact fun hg => step_read_error hh (hostValue_of_busy hs hg)
  · rintro rfl
    exact step_read_ok hh (by rw [hostValue_busy, hs]; rfl)

/-- Settles O32: an idle block answers from the field or the buffer byte, and each of them is checked for UNWRITTEN. -/
theorem hostReadOfUnwrittenFaults : Obligations.HostReadOfUnwrittenFaults := by
  intro s g rest hs hh hun
  refine step_read_error hh ((hostValue_of_idle g hs).trans ?_)
  rcases hun with ⟨rfl, hnone⟩ | ⟨rfl, hnone⟩ | ⟨rfl, hnone⟩ | ⟨rfl, hnone⟩ | ⟨i, rfl, hi, hnone⟩ | ⟨i, rfl, hi, hnone⟩
  · simp [idleValue, hnone]
  · simp [idleValue, hnone]
  · simp [idleValue, hnone]
  · simp [idleValue, hnone]
  · exact bufferByte_unwritten (.fbuf i) hi hnone
  · exact bufferByte_unwritten (.cbuf i) hi hnone

end Sys2Proof.Machine
end

section
/-! PROOFS. What every step keeps (10_state.md section 3): the frame of a running SYNC, the canonical buffers, the
invariant of the running machine, and the shape of the result record. -/

namespace Sys2Proof.Machine

/-! ### What a move of the running SYNC leaves, and what it reads -/

/-- The latch, the command buffer and the host's side, which no move of the running SYNC touches (R26, R35). -/
structure SyncFrame (s t : State) : Prop where
  op : t.op = s.op
  E : t.E = s.E
  pol : t.pol = s.pol
  code : t.code = s.code
  payload : t.payload = s.payload
  n : t.n = s.n
  vop : t.vop = s.vop
  cbuf : t.cbuf = s.cbuf
  req : t.req = s.req
  host : t.host = s.host

theorem SyncMove.frame {s t : State} (h : SyncMove s t) : SyncFrame s t := by
  cases h with
  | notBusy | unanswered => constructor <;> rfl
  | budget | timeout | error | exhausted | verified => constructor <;> simp
  | hunt0 | hunt1 | lock => constructor <;> simp
  | lenHi | length | mismatch | body => constructor <;> simp

/-- A move reads no event, or the oldest one, which it counts (R25, R101). -/
theorem SyncMove.events {s t : State} (h : SyncMove s t) :
    (t.rx = s.rx ∧ t.pnrx = s.pnrx) ∨ (atRead s ∧ ∃ ev, s.rx = ev :: t.rx ∧ t.pnrx = s.pnrx + 1) := by
  cases h with
  | notBusy | unanswered | budget | verified => exact .inl ⟨rfl, rfl⟩
  | timeout hread rest hx | error hread rest hx => exact .inr ⟨hread, _, hx, rfl⟩
  | hunt0 hr hb b rest hx => exact .inr ⟨⟨by simp [hr], fun _ => hb, by simp [hr]⟩, _, hx, rfl⟩
  | body hr hT hi b rest hx => exact .inr ⟨⟨by simp [hr], by simp [hr], fun _ => hT⟩, _, hx, rfl⟩
  | lock hr rest hx | exhausted hr b rest hx | hunt1 hr b rest hx | lenHi hr b rest hx | mismatch hr hi b rest hx
  | length hr hi b rest t hx => exact .inr ⟨⟨by simp [hr], by simp [hr], by simp [hr]⟩, _, hx, rfl⟩

/-- A charged byte leaves the SYNC hunting (R102, R104). -/
theorem chargeByte_rs_ne_idle (b : Byte) (s : State) : (chargeByte b s).rs ≠ .idle := by
  rw [chargeByte_rs]
  split <;> simp

/-! ### What every step keeps -/

/-- A property that says nothing of the host's side, holds after reset, and is kept by taking a request and by every
move of the running SYNC, is kept by every step (R61). -/
theorem step_keeps {P : State → Prop}
    (hagents : ∀ s req host data, P s → P { s with req := req, host := host, hostData := data })
    (hreset : ∀ s, P (resetBlock s))
    (htaken : ∀ s t, s.rs = .idle → P s → Taken s t → P t)
    (hmove : ∀ s t, s.rs ≠ .idle → P s → SyncMove s t → P t)
    {s t : State} (hs : P s) (h : step s = .next t) : P t := by
  cases step_move h with
  | present r rest => exact hagents s (some r) rest s.hostData hs
  | read g rest v => exact hagents s s.req rest (some v) hs
  | reset rest => exact hreset _
  | block rest t _ hb =>
    have hs' : P { s with host := rest } := hagents s s.req rest s.hostData hs
    rcases blockStep_cases hb with ⟨hrun, hm⟩ | ⟨-, -, rfl⟩ | ⟨hidle, r, -, htake⟩
    · exact hmove _ _ hrun hs' hm
    · exact hs'
    · obtain ⟨u, hu, htk⟩ := takeWord_taken r (s := { s with host := rest, req := none }) hidle
      cases hu.symm.trans htake
      exact htaken { s with host := rest, req := none } _ hidle (hagents s none rest s.hostData hs) htk

/-! ### Canonical buffers -/

theorem resetBlock_buffersInv (s : State) : BuffersInv (resetBlock s) where
  fbufWf := wf_cleared _
  cbufWf := wf_cleared _
  vopLength := rfl

theorem Taken.buffersInv {s t : State} (h : Taken s t) (hs : BuffersInv s) : BuffersInv t := by
  obtain ⟨hfbuf, hcbuf, hvop⟩ := hs
  cases h with
  | refused => exact ⟨hfbuf, hcbuf, hvop⟩
  | sync => exact ⟨wf_cleared _, hcbuf, hvop⟩
  | command code payload => exact ⟨hfbuf, wf_writeAll _ hcbuf 0 (by simp [commandFrame]), hvop⟩
  | verify n ops hlegal =>
    obtain ⟨-, hn, hlen⟩ := of_decide_eq_true hlegal
    refine ⟨hfbuf, hcbuf, ?_⟩
    rw [verifyBytes_vop, List.length_append, List.length_drop, hvop]
    omega

/-- Every byte of a frame goes to an index that `fbuf` has. -/
theorem SyncMove.fbuf_wf {s t : State} (h : SyncMove s t) (hs : Memory.wf Config.bufSize s.fbuf) :
    Memory.wf Config.bufSize t.fbuf := by
  cases h with
  | notBusy | unanswered | budget | timeout | error | hunt0 | exhausted | hunt1 | verified => exact hs
  | lock => exact wf_write (wf_write hs _ (by decide)) _ (by decide)
  | lenHi | mismatch | length => exact wf_write hs _ (by decide)
  | body _ _ hi => exact wf_write hs _ hi

theorem SyncMove.buffersInv {s t : State} (h : SyncMove s t) (hs : BuffersInv s) : BuffersInv t where
  fbufWf := h.fbuf_wf hs.fbufWf
  cbufWf := h.frame.cbuf ▸ hs.cbufWf
  vopLength := h.frame.vop ▸ hs.vopLength

/-- Settles O36: every write goes to an index that its buffer has, and a VERIFY replaces as many bytes as it brings. -/
theorem stepKeepsBuffersCanonical : Obligations.StepKeepsBuffersCanonical :=
  fun _ _ => step_keeps (fun _ _ _ _ ⟨hfbuf, hcbuf, hvop⟩ => ⟨hfbuf, hcbuf, hvop⟩) resetBlock_buffersInv
    (fun _ _ _ hs htaken => htaken.buffersInv hs) (fun _ _ _ hs hmove => hmove.buffersInv hs)

/-! ### The invariant, by receive state -/

theorem busy_eq_true {s : State} : s.busy = true ↔ s.rs ≠ .idle := by simp [State.busy]

theorem busy_eq_false {s : State} : s.busy = false ↔ s.rs = .idle := by simp [State.busy]

theorem RunInv.filled_idle {s : State} (h : RunInv s) (hs : s.rs = .idle) : filledTo s.fbuf s.flen.toNat :=
  h.idleFilled (busy_eq_false.mpr hs)

theorem RunInv.E_bounds {s : State} (h : RunInv s) (hs : s.rs ≠ .idle) : 6 ≤ s.E.toNat ∧ s.E.toNat ≤ 32 :=
  (h.busyOp (busy_eq_true.mpr hs)).2

/-- Of an idle block the invariant says what the buffers hold. -/
theorem runInv_of_idle {s : State} (hs : s.rs = .idle) (hbuf : BuffersInv s)
    (hcbuf : s.cbuf = [] ∨ filledTo s.cbuf Config.cmdSize) (hfbuf : filledTo s.fbuf s.flen.toNat) : RunInv s where
  buffers := hbuf
  cbufWhole := hcbuf
  idleFilled := fun _ => hfbuf
  busyFilled := fun h => absurd hs (busy_eq_true.mp h)
  busyOp := fun h => absurd hs (busy_eq_true.mp h)
  sum := fun h => absurd hs (busy_eq_true.mp h)
  counters := by simp [countersInv, hs]
  content := by simp [contentInv, hs]

/-- What the invariant says of every running SYNC, whatever its receive state. -/
structure RunningInv (s : State) : Prop where
  buffers : BuffersInv s
  cbufWhole : s.cbuf = [] ∨ filledTo s.cbuf Config.cmdSize
  filled : filledTo s.fbuf s.idx.toNat
  flen : s.flen = 0
  op : s.op = .sync
  bounds : 6 ≤ s.E.toNat ∧ s.E.toNat ≤ 32
  sum : s.acc = sum16 (bytesOf s.fbuf)

theorem RunInv.runningInv {s : State} (h : RunInv s) (hs : s.rs ≠ .idle) : RunningInv s where
  buffers := h.buffers
  cbufWhole := h.cbufWhole
  filled := h.filled_running hs
  flen := (h.busyFilled (busy_eq_true.mpr hs)).2
  op := (h.busyOp (busy_eq_true.mpr hs)).1
  bounds := h.E_bounds hs
  sum := h.sum (busy_eq_true.mpr hs)

theorem RunningInv.runInv {s : State} (h : RunningInv s) (hs : s.rs ≠ .idle) (hcounters : countersInv s)
    (hcontent : contentInv s) : RunInv s where
  buffers := h.buffers
  cbufWhole := h.cbufWhole
  idleFilled := fun hi => absurd (busy_eq_false.mp hi) hs
  busyFilled := fun _ => ⟨h.filled, h.flen⟩
  busyOp := fun _ => ⟨h.op, h.bounds⟩
  sum := fun _ => h.sum
  counters := hcounters
  content := hcontent

/-- A byte stored at `idx` keeps `fbuf` filled as far as `idx` says, and `acc` its sum (R32, R141). -/
theorem RunningInv.storeByte {s : State} (h : RunningInv s) {k : Nat} (hk : s.idx.toNat = k)
    (hlt : k < 32) (b : Byte) : RunningInv (storeByte k b s) where
  buffers := ⟨wf_write h.buffers.fbufWf b hlt, h.buffers.cbufWf, h.buffers.vopLength⟩
  cbufWhole := h.cbufWhole
  filled := by
    have hidx : (Machine.storeByte k b s).idx.toNat = k + 1 := by
      rw [storeByte_idx, BitVec.toNat_ofNat, Nat.mod_eq_of_lt (by omega)]
    rw [hidx]
    exact filledTo_write (hk ▸ h.filled) b
  flen := h.flen
  op := h.op
  bounds := h.bounds
  sum := by
    rw [storeByte_acc, storeByte_fbuf, bytesOf_write (hk ▸ h.filled), sum16_append_one, h.sum]

/-- Completion of a SYNC leaves `fbuf` filled as far as `flen` says (R110). -/
theorem RunningInv.finishSync {s : State} (h : RunningInv s) (st : Status) (c : Option (Half × Half)) :
    RunInv (finishSync st c s) :=
  runInv_of_idle rfl ⟨h.buffers.fbufWf, h.buffers.cbufWf, h.buffers.vopLength⟩ h.cbufWhole h.filled

/-- `RunningInv` does not look at the receive state, the budget, the length registers or the events. -/
theorem RunningInv.congr {s t : State} (h : RunningInv s) (hbuffers : t.fbuf = s.fbuf ∧ t.cbuf = s.cbuf ∧ t.vop = s.vop)
    (hregs : t.idx = s.idx ∧ t.flen = s.flen ∧ t.op = s.op ∧ t.E = s.E ∧ t.acc = s.acc) : RunningInv t := by
  obtain ⟨hfbuf, hcbuf, hvop⟩ := hbuffers
  obtain ⟨hidx, hflen, hop, hE, hacc⟩ := hregs
  exact ⟨⟨hfbuf ▸ h.buffers.fbufWf, hcbuf ▸ h.buffers.cbufWf, hvop ▸ h.buffers.vopLength⟩, hcbuf ▸ h.cbufWhole,
    hfbuf ▸ hidx ▸ h.filled, hflen ▸ h.flen, hop ▸ h.op, hE ▸ h.bounds, hacc ▸ hfbuf ▸ h.sum⟩

/-! ### The running SYNC keeps its invariant -/

/-- The two states of the hunt (R27). -/
abbrev hunting (s : State) : Prop := s.rs = .hunt0 ∨ s.rs = .hunt1

theorem ne_idle_of_hunting {s : State} (hr : hunting s) : s.rs ≠ .idle := by
  rcases hr with hr | hr <;> simp [hr]

theorem countersInv_hunt {s : State} (hr : hunting s) :
    countersInv s ↔
      s.idx.toNat = 0 ∧ s.pnrx.toNat = s.scan.toNat ∧ s.scan.toNat ≤ 2 * s.E.toNat + 1 := by
  rcases hr with hr | hr <;> simp only [countersInv, hr, scanBudget]

theorem contentInv_hunt {s : State} (hr : hunting s) : contentInv s ↔ s.plenf = none ∧ s.pmatch = none := by
  rcases hr with hr | hr <;> simp only [contentInv, hr]

theorem RunInv.counters_hunt {s : State} (h : RunInv s) (hr : hunting s) :
    s.idx.toNat = 0 ∧ s.pnrx.toNat = s.scan.toNat ∧ s.scan.toNat ≤ 2 * s.E.toNat + 1 :=
  (countersInv_hunt hr).mp h.counters

theorem RunInv.counters_lenHi {s : State} (h : RunInv s) (hr : s.rs = .lenHi) :
    s.idx.toNat = 2 ∧ s.pnrx.toNat + 1 = s.scan.toNat + 2 ∧ s.scan.toNat ≤ 2 * s.E.toNat + 1 := by
  simpa only [countersInv, hr, scanBudget] using h.counters

theorem RunInv.counters_lenLo {s : State} (h : RunInv s) (hr : s.rs = .lenLo) :
    s.idx.toNat = 3 ∧ s.pnrx.toNat + 1 = s.scan.toNat + 3 ∧ s.scan.toNat ≤ 2 * s.E.toNat + 1 := by
  simpa only [countersInv, hr, scanBudget] using h.counters

theorem RunInv.content_hunt {s : State} (h : RunInv s) (hr : hunting s) : s.plenf = none ∧ s.pmatch = none :=
  (contentInv_hunt hr).mp h.content

theorem RunInv.content_lenHi {s : State} (h : RunInv s) (hr : s.rs = .lenHi) :
    bytesOf s.fbuf = [Config.sync0, Config.sync1] ∧ s.plenf = none ∧ s.pmatch = none := by
  simpa only [contentInv, hr] using h.content

theorem RunInv.content_lenLo {s : State} (h : RunInv s) (hr : s.rs = .lenLo) :
    (bytesOf s.fbuf).take 2 = [Config.sync0, Config.sync1] ∧ s.plenf = none ∧ s.pmatch = none := by
  simpa only [contentInv, hr] using h.content

/-- A hunt has stored nothing. -/
theorem RunInv.fbuf_hunt {s : State} (h : RunInv s) (hr : hunting s) : s.fbuf = [] := by
  have hs := ne_idle_of_hunting hr
  obtain ⟨hidx, -, -⟩ := h.counters_hunt hr
  have hfill := h.filled_running hs
  rw [hidx] at hfill
  simpa [filledTo] using hfill

/-- In `LEN_LO` the high length byte is the third of three bytes. -/
theorem RunInv.bytes_lenLo {s : State} (h : RunInv s) (hr : s.rs = .lenLo) :
    ∃ hi, Memory.read s.fbuf 2 = some hi ∧ bytesOf s.fbuf = [Config.sync0, Config.sync1, hi] := by
  have hfill := h.filled_running (by simp [hr])
  obtain ⟨hidx, -, -⟩ := h.counters_lenLo hr
  obtain ⟨htake, -, -⟩ := h.content_lenLo hr
  have hlen : (bytesOf s.fbuf).length = 3 := by rw [length_bytesOf hfill, hidx]
  obtain ⟨x, y, hi, hbytes⟩ := List.length_eq_three.mp hlen
  refine ⟨hi, by rw [read_filled hfill, hbytes]; rfl, ?_⟩
  rw [hbytes] at htake ⊢
  obtain ⟨rfl, rfl⟩ : x = Config.sync0 ∧ y = Config.sync1 := by simpa using htake
  rfl

/-- R112: no SYNC has made more than `3E` reads, and at a read it has one left. -/
theorem RunInv.reads_le {s : State} (h : RunInv s) (hs : s.rs ≠ .idle) :
    s.pnrx.toNat ≤ 3 * s.E.toNat ∧ (atRead s → s.pnrx.toNat < 3 * s.E.toNat) := by
  obtain ⟨hmin, -⟩ := h.E_bounds hs
  cases hr : s.rs with
  | idle => exact absurd hr hs
  | hunt0 =>
    obtain ⟨-, hnrx, hscan⟩ := h.counters_hunt (.inl hr)
    exact ⟨by omega, fun _ => by omega⟩
  | hunt1 =>
    obtain ⟨-, hnrx, hscan⟩ := h.counters_hunt (.inr hr)
    exact ⟨by omega, fun _ => by omega⟩
  | lenHi =>
    obtain ⟨-, hnrx, hscan⟩ := h.counters_lenHi hr
    exact ⟨by omega, fun _ => by omega⟩
  | lenLo =>
    obtain ⟨-, hnrx, hscan⟩ := h.counters_lenLo hr
    exact ⟨by omega, fun _ => by omega⟩
  | body =>
    obtain ⟨-, hidx, hT, hnrx, hscan⟩ := h.counters_body hr
    rw [scanBudget] at hscan
    refine ⟨by omega, fun ⟨_, _, hne⟩ => ?_⟩
    have := hne hr
    omega

/-- The count of reads does not wrap (R31). -/
theorem RunInv.toNat_pnrx_add_one {s : State} (h : RunInv s) (hs : s.rs ≠ .idle) :
    (s.pnrx + 1).toNat = s.pnrx.toNat + 1 := by
  obtain ⟨-, hmax⟩ := h.E_bounds hs
  obtain ⟨hreads, -⟩ := h.reads_le hs
  rw [BitVec.toNat_add]
  exact Nat.mod_eq_of_lt (by simp; omega)

/-- A byte charged within the budget does not wrap the count of them (R29, R31). -/
theorem RunInv.toNat_scan_add_one {s : State} (h : RunInv s) (hr : hunting s) :
    (s.scan + 1).toNat = s.scan.toNat + 1 := by
  obtain ⟨-, -, hscan⟩ := h.counters_hunt hr
  obtain ⟨-, hmax⟩ := h.E_bounds (ne_idle_of_hunting hr)
  rw [BitVec.toNat_add]
  exact Nat.mod_eq_of_lt (by simp; omega)

theorem RunningInv.consume {s : State} (h : RunningInv s) (rest : List RxEvent) : RunningInv (consume rest s) :=
  h.congr ⟨rfl, rfl, rfl⟩ ⟨rfl, rfl, rfl, rfl, rfl⟩

/-- A byte charged within the budget keeps the invariant of the hunt (R103). -/
theorem RunInv.chargeByte {s : State} (h : RunInv s) (hr : hunting s) (hb : s.scan.toNat ≠ scanBudget s.E) (b : Byte)
    (rest : List RxEvent) : RunInv (chargeByte b (Machine.consume rest s)) := by
  have hs := ne_idle_of_hunting hr
  obtain ⟨hidx, hnrx, hscan⟩ := h.counters_hunt hr
  have hnrx' := h.toNat_pnrx_add_one hs
  have hscan' := h.toNat_scan_add_one hr
  rw [scanBudget] at hb
  have hrun : RunningInv (Machine.chargeByte b (Machine.consume rest s)) :=
    (h.runningInv hs).congr ⟨rfl, rfl, rfl⟩ ⟨rfl, rfl, rfl, rfl, rfl⟩
  have hr' : hunting (Machine.chargeByte b (Machine.consume rest s)) := by
    by_cases hsync : b = Config.sync0 <;> simp [hunting, hsync]
  refine hrun.runInv (ne_idle_of_hunting hr') ((countersInv_hunt hr').mpr ⟨hidx, ?_, ?_⟩)
    ((contentInv_hunt hr').mpr (h.content_hunt hr))
  · rw [chargeByte_pnrx, consume_pnrx, chargeByte_scan, consume_scan]
    omega
  · rw [chargeByte_scan, consume_scan, chargeByte_E, consume_E]
    omega

theorem bytesOf_lockSync {s : State} (h : s.fbuf = []) :
    bytesOf (lockSync s).fbuf = [Config.sync0, Config.sync1] := by
  rw [lockSync_fbuf, h]
  rfl

/-- Finding the sync keeps the invariant (R104). -/
theorem RunInv.lockSync {s : State} (h : RunInv s) (hr : s.rs = .hunt1) (rest : List RxEvent) :
    RunInv (lockSync (Machine.consume rest s)) := by
  have hs : s.rs ≠ .idle := by simp [hr]
  obtain ⟨hidx, hnrx, hscan⟩ := h.counters_hunt (.inr hr)
  have hnrx' := h.toNat_pnrx_add_one hs
  have hrun : RunningInv (storeByte 1 Config.sync1 (storeByte 0 Config.sync0 (Machine.consume rest s))) :=
    (((h.runningInv hs).consume rest).storeByte hidx (by decide) _).storeByte (k := 1) rfl (by decide) _
  refine (hrun.congr (t := Machine.lockSync (Machine.consume rest s)) ⟨rfl, rfl, rfl⟩ ⟨rfl, rfl, rfl, rfl, rfl⟩).runInv
    (by simp) ?_ ?_
  · simp only [countersInv, lockSync_rs, lockSync_idx, lockSync_pnrx, lockSync_scan, lockSync_E, consume_pnrx,
      consume_scan, consume_E, scanBudget]
    exact ⟨rfl, by omega, hscan⟩
  · simp only [contentInv, lockSync_rs]
    exact ⟨bytesOf_lockSync (h.fbuf_hunt (.inr hr)), h.content_hunt (.inr hr)⟩

/-- The high length byte keeps the invariant (R105). -/
theorem RunInv.lenHi {s : State} (h : RunInv s) (hr : s.rs = .lenHi) (b : Byte) (rest : List RxEvent) :
    RunInv { storeByte 2 b (Machine.consume rest s) with rs := .lenLo } := by
  have hs : s.rs ≠ .idle := by simp [hr]
  obtain ⟨hidx, hnrx, hscan⟩ := h.counters_lenHi hr
  obtain ⟨hbytes, hcontent⟩ := h.content_lenHi hr
  have hfill := h.filled_running hs
  rw [hidx] at hfill
  have hnrx' := h.toNat_pnrx_add_one hs
  have hrun := ((h.runningInv hs).consume rest).storeByte hidx (by decide) b
  refine RunningInv.runInv (hrun.congr ⟨rfl, rfl, rfl⟩ ⟨rfl, rfl, rfl, rfl, rfl⟩) (by simp) ?_ ?_
  · simp only [countersInv, storeByte_idx, storeByte_pnrx, storeByte_scan, storeByte_E, consume_pnrx, consume_scan,
      consume_E, scanBudget]
    exact ⟨rfl, by omega, hscan⟩
  · simp only [contentInv, storeByte_fbuf, consume_fbuf, bytesOf_write hfill, hbytes]
    exact ⟨rfl, hcontent⟩

/-- The low length byte, stored at index 3 (R105). -/
theorem RunInv.storeByte_three {s : State} (h : RunInv s) (hr : s.rs = .lenLo) (b : Byte) (rest : List RxEvent) :
    RunningInv (Machine.storeByte 3 b (Machine.consume rest s)) := by
  obtain ⟨hidx, -, -⟩ := h.counters_lenLo hr
  exact ((h.runningInv (by simp [hr])).consume rest).storeByte hidx (by decide) b

/-- The target length that a policy gives (R106, R107). -/
theorem targetLen_some {pol : Policy} {lenf : Half} {e : BitVec 6} {t : BitVec 17} (h : targetLen pol lenf e = some t) :
    (pol = .strict → lenf.toNat + 4 = e.toNat ∧ t.toNat = e.toNat) ∧
      (pol = .tolerant → t.toNat = min (lenf.toNat + 4) e.toNat) := by
  have hE := e.isLt
  cases pol with
  | strict =>
    simp only [targetLen, Option.ite_none_right_eq_some, Option.some.injEq] at h
    obtain ⟨hlen, rfl⟩ := h
    exact ⟨fun _ => ⟨hlen, by rw [BitVec.toNat_setWidth, Nat.mod_eq_of_lt (by omega)]⟩, by simp⟩
  | tolerant =>
    simp only [targetLen, Option.some.injEq] at h
    subst h
    exact ⟨by simp, fun _ => by rw [BitVec.toNat_ofNat, Nat.mod_eq_of_lt (by omega)]⟩

theorem targetLen_bounds {pol : Policy} {lenf : Half} {e : BitVec 6} {t : BitVec 17} (h : targetLen pol lenf e = some t)
    (he : 4 ≤ e.toNat) : 4 ≤ t.toNat ∧ t.toNat ≤ e.toNat := by
  obtain ⟨hstrict, htolerant⟩ := targetLen_some h
  cases pol with
  | strict =>
    obtain ⟨-, ht⟩ := hstrict rfl
    omega
  | tolerant =>
    have ht := htolerant rfl
    omega

/-- The length field and the policy's target length keep the invariant (R105 to R107). -/
theorem RunInv.lenLo {s : State} (h : RunInv s) (hr : s.rs = .lenLo) {hi b : Byte} {rest : List RxEvent} {t : BitVec 17}
    (hh : Memory.read s.fbuf 2 = some hi) (ht : targetLen s.pol (be16 hi b) s.E = some t) :
    RunInv
      { Machine.storeByte 3 b (Machine.consume rest s) with
        lenf := be16 hi b, plenf := some (be16 hi b), pmatch := some (lengthMatches (be16 hi b) s.E)
        T := t, rs := .body } := by
  have hs : s.rs ≠ .idle := by simp [hr]
  obtain ⟨hidx, hnrx, hscan⟩ := h.counters_lenLo hr
  obtain ⟨hi', hread, hbytes⟩ := h.bytes_lenLo hr
  obtain rfl : hi = hi' := Option.some.inj (hh.symm.trans hread)
  have hfill := h.filled_running hs
  rw [hidx] at hfill
  obtain ⟨hmin, hmax⟩ := h.E_bounds hs
  obtain ⟨hT4, hTE⟩ := targetLen_bounds ht (by omega)
  have hnrx' := h.toNat_pnrx_add_one hs
  have hrun := h.storeByte_three hr b rest
  refine RunningInv.runInv (hrun.congr ⟨rfl, rfl, rfl⟩ ⟨rfl, rfl, rfl, rfl, rfl⟩) (by simp) ?_ ?_
  · have hidx' : (BitVec.ofNat 6 (3 + 1)).toNat = 4 := rfl
    simp only [countersInv, storeByte_idx, storeByte_pnrx, storeByte_scan, storeByte_E, consume_pnrx, consume_scan,
      consume_E, scanBudget, hidx']
    exact ⟨by omega, hT4, hTE, by omega, hscan⟩
  · simp only [contentInv, storeByte_fbuf, consume_fbuf, bytesOf_write hfill, hbytes, storeByte_E, consume_E,
      storeByte_pol, consume_pol]
    exact ⟨⟨hi, b, rfl, rfl⟩, trivial, rfl, targetLen_some ht⟩

/-- A body byte keeps the invariant (R108). -/
theorem RunInv.body {s : State} (h : RunInv s) (hr : s.rs = .body) (hT : s.idx.toNat ≠ s.T.toNat) (b : Byte)
    (rest : List RxEvent) : RunInv (Machine.storeByte s.idx.toNat b (Machine.consume rest s)) := by
  have hs : s.rs ≠ .idle := by simp [hr]
  obtain ⟨hidx, hidxT, hTE, hnrx, hscan⟩ := h.counters_body hr
  obtain ⟨⟨hi, lo, hbytes, hlenf⟩, hcontent⟩ := h.content_body hr
  obtain ⟨-, hmax⟩ := h.E_bounds hs
  have hfill := h.filled_running hs
  have hnrx' := h.toNat_pnrx_add_one hs
  refine (((h.runningInv hs).consume rest).storeByte (k := s.idx.toNat) rfl (by omega) b).runInv (by simp [hr]) ?_ ?_
  · simp only [countersInv, storeByte_rs, consume_rs, hr, storeByte_idx, storeByte_T, consume_T, storeByte_E, consume_E,
      storeByte_pnrx, consume_pnrx, storeByte_scan, consume_scan]
    rw [BitVec.toNat_ofNat, Nat.mod_eq_of_lt (by omega)]
    exact ⟨by omega, by omega, hTE, by omega, hscan⟩
  · simp only [contentInv, storeByte_rs, consume_rs, hr, storeByte_fbuf, consume_fbuf, bytesOf_write hfill]
    refine ⟨⟨hi, lo, ?_, hlenf⟩, hcontent⟩
    rw [List.take_append_of_le_length (by rw [length_bytesOf hfill]; exact hidx), hbytes]

theorem SyncMove.runInv {s t : State} (h : SyncMove s t) (hs : s.rs ≠ .idle) (hinv : RunInv s) : RunInv t := by
  have hrun := hinv.runningInv hs
  cases h with
  | notBusy | unanswered => exact hinv
  | budget | verified => exact hrun.finishSync _ _
  | timeout _ rest | error _ rest | exhausted _ _ rest => exact (hrun.consume rest).finishSync _ _
  | hunt0 hr hb b rest => exact hinv.chargeByte (.inl hr) hb b rest
  | hunt1 hr b rest _ _ hb => exact hinv.chargeByte (.inr hr) hb b rest
  | lock hr rest => exact hinv.lockSync hr rest
  | lenHi hr b rest => exact hinv.lenHi hr b rest
  | mismatch hr hi b rest =>
    refine RunningInv.finishSync ?_ _ _
    exact (hinv.storeByte_three hr b rest).congr ⟨rfl, rfl, rfl⟩ ⟨rfl, rfl, rfl, rfl, rfl⟩
  | length hr hi b rest t _ hh ht => exact hinv.lenLo hr hh ht
  | body hr hT _ b rest => exact hinv.body hr hT b rest

/-! ### Taking a request, and reset, give a state with the invariant -/

theorem resetBlock_runInv (s : State) : RunInv (resetBlock s) :=
  runInv_of_idle rfl (resetBlock_buffersInv s) (.inl rfl) rfl

/-- A run of writes at the end of a filled buffer leaves it filled as far as they go. -/
theorem filledTo_writeAll {m : Memory} {k : Nat} (h : filledTo m k) (bs : List Byte) :
    filledTo (Memory.writeAll m k bs) (k + bs.length) := by
  induction bs generalizing m k with
  | nil => exact h
  | cons b bs ih =>
    rw [List.length_cons, ← Nat.add_assoc, Nat.add_right_comm]
    exact ih (filledTo_write h b)

/-- A write over a listed entry lists no new index. -/
theorem indices_write_mem {m : Memory} (hm : m.Pairwise fun c d => c.1 < d.1) {a : Nat} (ha : a ∈ m.map (·.1))
    (b : Byte) : (Memory.write m a b).map (·.1) = m.map (·.1) := by
  induction m with
  | nil => simp at ha
  | cons c rest ih =>
    obtain ⟨x, c⟩ := c
    obtain ⟨hlt, hrest⟩ := List.pairwise_cons.mp hm
    unfold Memory.write
    split
    next hax =>
      rcases List.mem_cons.mp ha with rfl | ha
      · exact absurd hax (lt_irrefl _)
      · obtain ⟨d, hd, rfl⟩ := List.mem_map.mp ha
        exact absurd hax (Nat.lt_asymm (hlt d hd))
    next =>
      split
      next hax => simp [hax]
      next hax => simp [ih hrest (List.mem_of_ne_of_mem hax ha)]

theorem indices_writeAll_mem {size : Nat} {m : Memory} (hm : Memory.wf size m) {k : Nat} (bs : List Byte)
    (hk : ∀ i, k ≤ i → i < k + bs.length → i ∈ m.map (·.1)) :
    (Memory.writeAll m k bs).map (·.1) = m.map (·.1) := by
  induction bs generalizing m k with
  | nil => rfl
  | cons b bs ih =>
    have hmem : k ∈ m.map (·.1) := hk k (le_refl k) (by simp)
    have hwrite := indices_write_mem hm.1 hmem b
    obtain ⟨c, hc, rfl⟩ := List.mem_map.mp hmem
    rw [Memory.writeAll, ih (wf_write hm b (hm.2 c hc)), hwrite]
    intro i hi hlt
    rw [hwrite]
    exact hk i (by omega) (by rw [List.length_cons]; omega)

/-- ENC leaves `cbuf` whole (R160). -/
theorem encodeCommand_cbuf_whole {s : State} (hs : BuffersInv s) (hcbuf : s.cbuf = [] ∨ filledTo s.cbuf Config.cmdSize)
    (code : Byte) (payload : Half) : filledTo (encodeCommand code payload s).cbuf Config.cmdSize := by
  have hlen : (commandFrame code payload).length = Config.cmdSize := rfl
  rw [encodeCommand_cbuf]
  rcases hcbuf with hnil | hwhole
  · rw [hnil, ← hlen, ← Nat.zero_add (commandFrame code payload).length]
    exact filledTo_writeAll rfl _
  · rw [filledTo, indices_writeAll_mem hs.cbufWf, hwhole]
    intro i _ hi
    rw [hwhole, List.mem_range]
    simpa [hlen] using hi

theorem toNat_setWidth_six {e : Byte} (h : e.toNat ≤ 32) : (e.setWidth 6).toNat = e.toNat := by
  rw [BitVec.toNat_setWidth, Nat.mod_eq_of_lt (by omega)]

/-- A SYNC starts with nothing stored, read or charged (R100). -/
theorem startSync_runInv {s : State} {pol : Policy} {e : Byte} (hbuf : BuffersInv (startSync pol e s))
    (hcbuf : s.cbuf = [] ∨ filledTo s.cbuf Config.cmdSize) (h : legalLen e = true) : RunInv (startSync pol e s) := by
  obtain ⟨hmin, hmax⟩ := of_decide_eq_true h
  have hE : (startSync pol e s).E.toNat = e.toNat := toNat_setWidth_six hmax
  have hrun : RunningInv (startSync pol e s) :=
    ⟨hbuf, hcbuf, rfl, rfl, rfl, by rw [hE]; exact ⟨hmin, hmax⟩, rfl⟩
  exact hrun.runInv (by simp) ⟨rfl, rfl, Nat.zero_le _⟩ ⟨rfl, rfl⟩

theorem Taken.runInv {s t : State} (h : Taken s t) (hs : s.rs = .idle) (hinv : RunInv s) : RunInv t := by
  have hbuf := h.buffersInv hinv.buffers
  have hfill := hinv.filled_idle hs
  cases h with
  | refused | verify => exact runInv_of_idle rfl hbuf hinv.cbufWhole hfill
  | command code payload =>
    exact runInv_of_idle rfl hbuf (.inr (encodeCommand_cbuf_whole hinv.buffers hinv.cbufWhole code payload)) hfill
  | sync pol e hlegal => exact startSync_runInv hbuf hinv.cbufWhole hlegal

/-- The host's side is no part of the invariant. -/
theorem RunInv.agents {s : State} (h : RunInv s) (req : Option Request) (host : List HostAct)
    (data : Option (BitVec 16)) : RunInv { s with req := req, host := host, hostData := data } where
  buffers := ⟨h.buffers.fbufWf, h.buffers.cbufWf, h.buffers.vopLength⟩
  cbufWhole := h.cbufWhole
  idleFilled := h.idleFilled
  busyFilled := h.busyFilled
  busyOp := h.busyOp
  sum := h.sum
  counters := h.counters
  content := h.content

/-- Settles O37: move by move, by the receive state. -/
theorem stepKeepsTheRunInvariant : Obligations.StepKeepsTheRunInvariant :=
  fun _ _ => step_keeps (fun _ req host data h => h.agents req host data) resetBlock_runInv
    (fun _ _ hs h htaken => htaken.runInv hs h) (fun _ _ hs h hmove => hmove.runInv hs h)

/-! ### The shape of the result record -/

/-- Settles O35: the machine after reset is idle, with empty buffers and the record NONE. -/
theorem resetMeetsTheInvariant : Obligations.ResetMeetsTheInvariant where
  running := resetBlock_runInv State.reset
  record := ⟨.inr rfl, rfl, rfl, rfl, rfl, rfl⟩

theorem Taken.wellShaped {s t : State} (h : Taken s t) (hs : s.res.wellShaped) : t.res.wellShaped := by
  cases h with
  | refused => exact ⟨.inl rfl, rfl, rfl, rfl, rfl, rfl⟩
  | sync => exact hs
  | command => exact ⟨rfl, rfl, rfl, rfl, rfl, rfl⟩
  | verify => exact ⟨rfl, rfl, rfl, _, _, rfl, rfl, rfl⟩

/-- The two length fields of the record are written together (R105). -/
theorem RunInv.plenf_pmatch {s : State} (h : RunInv s) (hs : s.rs ≠ .idle) : s.plenf.isSome = s.pmatch.isSome := by
  cases hr : s.rs with
  | idle => exact absurd hr hs
  | hunt0 =>
    obtain ⟨hlen, hmatch⟩ := h.content_hunt (.inl hr)
    rw [hlen, hmatch]; rfl
  | hunt1 =>
    obtain ⟨hlen, hmatch⟩ := h.content_hunt (.inr hr)
    rw [hlen, hmatch]; rfl
  | lenHi =>
    obtain ⟨-, hlen, hmatch⟩ := h.content_lenHi hr
    rw [hlen, hmatch]; rfl
  | lenLo =>
    obtain ⟨-, hlen, hmatch⟩ := h.content_lenLo hr
    rw [hlen, hmatch]; rfl
  | body =>
    obtain ⟨-, hlen, hmatch, -⟩ := h.content_body hr
    rw [hlen, hmatch]; rfl

/-- R112: however a SYNC moves, the reads it has made then are at most `3E`. -/
theorem SyncMove.reads_le {s t : State} (h : SyncMove s t) (hs : s.rs ≠ .idle) (hinv : RunInv s) :
    t.pnrx.toNat ≤ 3 * s.E.toNat := by
  obtain ⟨hle, hlt⟩ := hinv.reads_le hs
  rcases h.events with ⟨-, hnrx⟩ | ⟨hread, ev, -, hnrx⟩
  · exact hnrx ▸ hle
  · rw [hnrx, hinv.toNat_pnrx_add_one hs]
    exact hlt hread

/-- Strict finds a mismatch only where `lmatch` is 0 (R106). -/
theorem lengthMatches_of_targetLen_none {pol : Policy} {lenf : Half} {e : BitVec 6} (h : targetLen pol lenf e = none) :
    pol = .strict ∧ lengthMatches lenf e = false := by
  cases pol with
  | strict =>
    simp only [targetLen, ite_eq_right_iff, reduceCtorEq, imp_false] at h
    exact ⟨rfl, by simp [lengthMatches, h]⟩
  | tolerant => simp [targetLen] at h

theorem SyncMove.wellShaped {s t : State} (h : SyncMove s t) (hs : s.rs ≠ .idle) (hinv : RunInv s)
    (hres : s.res.wellShaped) : t.res.wellShaped := by
  have hreads := h.reads_le hs hinv
  obtain ⟨-, hmax⟩ := hinv.E_bounds hs
  have hnrx : t.pnrx.toNat ≤ 3 * 32 := by omega
  have hlen := hinv.plenf_pmatch hs
  cases h with
  | notBusy | unanswered | hunt0 | lock | hunt1 | lenHi | length | body => exact hres
  | budget | timeout | exhausted => exact ⟨hnrx, hlen, .inl ⟨rfl, rfl, .inl rfl⟩⟩
  | error => exact ⟨hnrx, hlen, .inl ⟨rfl, rfl, .inr (.inl rfl)⟩⟩
  | mismatch _ hi b rest _ _ ht =>
    obtain ⟨-, hmatch⟩ := lengthMatches_of_targetLen_none ht
    exact ⟨hnrx, rfl, .inl ⟨rfl, rfl, .inr (.inr ⟨rfl, congrArg some hmatch⟩)⟩⟩
  | verified hr =>
    obtain ⟨-, hplenf, -⟩ := hinv.content_body hr
    exact ⟨hnrx, hlen, .inr ⟨_, _, rfl, rfl, rfl, by simp [hplenf]⟩⟩

/-- Settles O38: a taken request and a completed SYNC publish a record of their shape, and no other move touches it. -/
theorem stepKeepsTheInvariant : Obligations.StepKeepsTheInvariant :=
  fun _ _ => step_keeps (fun _ req host data h => ⟨h.running.agents req host data, h.record⟩)
    (fun s => ⟨resetBlock_runInv s, resetMeetsTheInvariant.record⟩)
    (fun _ _ hs h htaken => ⟨htaken.runInv hs h.running, htaken.wellShaped h.record⟩)
    (fun _ _ hs h hmove => ⟨hmove.runInv hs h.running, hmove.wellShaped hs h.running h.record⟩)

end Sys2Proof.Machine
end

section
/-! PROOFS. What a running SYNC reaches (40_receive.md section 5, 60_exceptions.md section 3): one step always answers,
the induction over its moves, and the bound on its reads. -/

namespace Sys2Proof.Machine

/-! ### A running SYNC always has a move -/

theorem exists_syncMove_atRead {s : State} (h : RunInv s) (hread : atRead s) : ∃ t, SyncMove s t := by
  obtain ⟨hs, hbudget, hT⟩ := hread
  rcases hx : s.rx with _ | ⟨_ | _ | _, rest⟩
  · exact ⟨_, .unanswered ⟨hs, hbudget, hT⟩ hx⟩
  · rename_i b
    cases hr : s.rs with
    | idle => exact absurd hr hs
    | hunt0 => exact ⟨_, .hunt0 hr (hbudget hr) b rest hx⟩
    | hunt1 =>
      by_cases hb : b = Config.sync1
      · exact ⟨_, .lock hr rest (hb ▸ hx)⟩
      · by_cases hscan : s.scan.toNat = scanBudget s.E
        · exact ⟨_, .exhausted hr b rest hx hb hscan⟩
        · exact ⟨_, .hunt1 hr b rest hx hb hscan⟩
    | lenHi => exact ⟨_, .lenHi hr b rest hx⟩
    | lenLo =>
      obtain ⟨hi, hh, -⟩ := h.bytes_lenLo hr
      cases ht : targetLen s.pol (be16 hi b) s.E with
      | none => exact ⟨_, .mismatch hr hi b rest hx hh ht⟩
      | some t => exact ⟨_, .length hr hi b rest t hx hh ht⟩
    | body =>
      obtain ⟨-, hidx, hTE, -, -⟩ := h.counters_body hr
      obtain ⟨-, hmax⟩ := h.E_bounds hs
      have hne := hT hr
      exact ⟨_, .body hr hne (show s.idx.toNat < 32 by omega) b rest hx⟩
  · exact ⟨_, .timeout ⟨hs, hbudget, hT⟩ rest hx⟩
  · exact ⟨_, .error ⟨hs, hbudget, hT⟩ rest hx⟩

/-- R186: no state that meets the invariant traps. Beside a read there is the budget check and the verification. -/
theorem RunInv.exists_syncMove {s : State} (h : RunInv s) (hs : s.rs ≠ .idle) : ∃ t, SyncMove s t := by
  by_cases hbudget : s.rs = .hunt0 ∧ s.scan.toNat = scanBudget s.E
  · exact ⟨_, .budget hbudget.1 hbudget.2⟩
  by_cases hT : s.rs = .body ∧ s.idx.toNat = s.T.toNat
  · obtain ⟨hr, hT⟩ := hT
    have hfill := h.filled_running hs
    obtain ⟨hfour, -⟩ := h.counters_body hr
    exact ⟨_, .verified hr hT _ (hT ▸ readFrom_whole hfill) (by rw [length_bytesOf hfill]; omega)⟩
  · exact exists_syncMove_atRead h ⟨hs, fun hr hb => hbudget ⟨hr, hb⟩, fun hr ht => hT ⟨hr, ht⟩⟩

theorem blockStep_of_request {s : State} {r : Request} (hs : s.rs = .idle) (hreq : s.req = some r) :
    blockStep s = takeWord r { s with req := none } := by
  unfold blockStep
  rw [hs, hreq]

theorem RunInv.exists_blockStep {s : State} (h : RunInv s) : ∃ t, blockStep s = .next t := by
  by_cases hs : s.rs = .idle
  · cases hreq : s.req with
    | none => exact ⟨s, by rw [blockStep, hs, hreq]⟩
    | some r =>
      obtain ⟨t, ht, -⟩ := takeWord_taken r (s := { s with req := none }) hs
      exact ⟨t, (blockStep_of_request hs hreq).trans ht⟩
  · obtain ⟨t, ht⟩ := h.exists_syncMove hs
    exact ⟨t, by rw [blockStep_busy hs, syncStep_of_move ht]⟩

/-- A step answers a next state wherever the host's next action is no read. -/
theorem RunInv.step_answers {s : State} (h : RunInv s) :
    (∃ t, step s = .next t) ∨ ∃ g rest, s.host = .read g :: rest := by
  unfold step totalStep
  split
  next => exact .inl h.exists_blockStep
  next rest _ => exact .inl (h.agents s.req rest s.hostData).exists_blockStep
  next =>
    split
    · exact .inl ⟨_, rfl⟩
    · exact .inl h.exists_blockStep
  next g rest hh => exact .inr ⟨g, rest, hh⟩
  next => exact .inl ⟨_, rfl⟩

/-- A host read answers a value or a host fault. -/
theorem hostRead_ne_refused (g : HostReg) (s : State) (r : Refusal) : hostRead g s ≠ .refused r := by
  unfold hostRead
  split <;> simp

/-- Settles O40: under the invariant the block always answers a next state, and the host's other actions always do. -/
theorem onlyHostReadsStop : Obligations.OnlyHostReadsStop := by
  intro s h
  rcases h.step_answers with ⟨t, ht⟩ | ⟨g, rest, hh⟩
  · simp [ht]
  · exact ⟨fun r => step_read hh ▸ hostRead_ne_refused g _ r, fun f _ => ⟨g, rest, hh⟩⟩

/-! ### Runs -/

theorem run_succ {s t : State} (h : step s = .next t) (k : Nat) : run (k + 1) s = run k t := by
  rw [run, h]

theorem run_one {s t : State} (h : step s = .next t) : run 1 s = .next t := by rw [run_succ h, run]

/-- A step that answers the same state answers it for ever. -/
theorem run_fixed {s : State} (h : step s = .next s) (k : Nat) : run k s = .next s := by
  induction k with
  | zero => rfl
  | succ k ih => rw [run_succ h, ih]

theorem step_unanswered {s : State} (hread : atRead s) (hh : s.host = []) (hx : s.rx = []) : step s = .next s :=
  step_of_syncMove hh hread.1 (.unanswered hread hx)

/-- Settles O43: an unanswered read repeats the state. -/
theorem unansweredReadHoldsTheBlock : Obligations.UnansweredReadHoldsTheBlock :=
  fun k _ hread hh hx => run_fixed (step_unanswered hread hh hx) k

/-! ### The induction over the moves of a running SYNC -/

/-- A move of a running SYNC completes it, repeats the state at an unanswered read, or reads one event and goes on. -/
theorem SyncMove.progress {s t : State} (h : SyncMove s t) (hs : s.rs ≠ .idle) :
    t.rs = .idle ∨ (t = s ∧ atRead s ∧ s.rx = []) ∨
      (t.rs ≠ .idle ∧ ∃ ev, s.rx = ev :: t.rx ∧ t.pnrx = s.pnrx + 1) := by
  cases h with
  | notBusy h => exact absurd h hs
  | unanswered hread hx => exact .inr (.inl ⟨rfl, hread, hx⟩)
  | budget | timeout | error | exhausted | mismatch | verified => exact .inl rfl
  | hunt0 _ _ b rest hx | hunt1 _ b rest hx => exact .inr (.inr ⟨chargeByte_rs_ne_idle b _, _, hx, rfl⟩)
  | lock _ rest hx | lenHi _ _ rest hx | length _ _ _ rest _ hx => exact .inr (.inr ⟨by simp, _, hx, rfl⟩)
  | body hr _ _ b rest hx => exact .inr (.inr ⟨hs, _, hx, rfl⟩)

/-- A completion publishes the running count of reads (R110). -/
theorem SyncMove.completed {s t : State} (h : SyncMove s t) (hs : s.rs ≠ .idle) (ht : t.rs = .idle) :
    t.res.rop = .sync ∧ t.res.nrx = t.pnrx ∧ t.flen = t.idx := by
  cases h with
  | budget | timeout | error | exhausted | mismatch | verified => exact ⟨rfl, rfl, rfl⟩
  | notBusy | unanswered => exact absurd ht hs
  | hunt0 _ _ b | hunt1 _ b => exact absurd ht (chargeByte_rs_ne_idle b _)
  | lock | lenHi | length => cases ht
  | body => exact absurd ht hs

/-- A running SYNC that no host action disturbs is stuck at a read, completes with its next move, or reads one event and
goes on; each event read leaves fewer, so a property that goes back along these three holds of it. -/
theorem running_induction {P : State → Prop}
    (hstuck : ∀ s, RunInv s → s.host = [] → atRead s → s.rx = [] → P s)
    (hdone : ∀ s t, RunInv s → s.host = [] → s.rs ≠ .idle → SyncMove s t → t.rs = .idle → P s)
    (hmore : ∀ s t ev, RunInv s → s.host = [] → s.rs ≠ .idle → SyncMove s t → t.rs ≠ .idle → s.rx = ev :: t.rx →
      t.pnrx = s.pnrx + 1 → P t → P s)
    {s : State} (hinv : RunInv s) (hh : s.host = []) (hs : s.rs ≠ .idle) : P s := by
  induction hx : s.rx generalizing s with
  | nil =>
    obtain ⟨t, hmove⟩ := hinv.exists_syncMove hs
    rcases hmove.progress hs with ht | ⟨-, hread, -⟩ | ⟨-, ev, hev, -⟩
    · exact hdone s t hinv hh hs hmove ht
    · exact hstuck s hinv hh hread hx
    · cases hx.symm.trans hev
  | cons ev rest ih =>
    obtain ⟨t, hmove⟩ := hinv.exists_syncMove hs
    rcases hmove.progress hs with ht | ⟨-, -, hx'⟩ | ⟨ht, ev', hev, hnrx⟩
    · exact hdone s t hinv hh hs hmove ht
    · cases hx.symm.trans hx'
    · obtain ⟨-, hrest⟩ := List.cons.inj (hx.symm.trans hev)
      exact hmore s t ev' hinv hh hs hmove ht hev hnrx
        (ih (hmove.runInv hs hinv) (hmove.frame.host.trans hh) ht hrest.symm)

/-! ### The bound on the reads (R112) -/

/-- Settles O41: a completion publishes the reads made, which the invariant bounds. -/
theorem syncReadsAreBounded : Obligations.SyncReadsAreBounded := by
  intro s t hinv hbusy hh hstep hidle
  have hs := busy_eq_true.mp hbusy
  have hmove := syncMove_of_step hh hs hstep
  obtain ⟨hrop, hnrx, -⟩ := hmove.completed hs (busy_eq_false.mp hidle)
  exact ⟨hrop, hnrx ▸ hmove.reads_le hs hinv⟩

/-- The events used up by a run that ends in a completion, counted in `nrx`, within as many steps as reads are left and
one more. -/
def completesCounting (s : State) : Prop :=
  ∃ k t, k ≤ 3 * s.E.toNat - s.pnrx.toNat + 1 ∧ run k s = .next t ∧ t.busy = false ∧ t.res.rop = .sync ∧
    ∃ used, s.rx = used ++ t.rx ∧ used.length + s.pnrx.toNat = t.res.nrx.toNat

theorem SyncMove.completesCounting {s t : State} (h : SyncMove s t) (hinv : RunInv s) (hh : s.host = [])
    (hs : s.rs ≠ .idle) (ht : t.rs = .idle) : completesCounting s := by
  obtain ⟨hrop, hnrx, -⟩ := h.completed hs ht
  refine ⟨1, t, by omega, run_one (step_of_syncMove hh hs h), busy_eq_false.mpr ht, hrop, ?_⟩
  rw [hnrx]
  rcases h.events with ⟨hx, hn⟩ | ⟨-, ev, hx, hn⟩
  · exact ⟨[], by simp [hx], by simp [hn]⟩
  · refine ⟨[ev], hx, ?_⟩
    rw [hn, hinv.toNat_pnrx_add_one hs, List.length_singleton, Nat.add_comm]

/-- Settles O42: by induction over the moves. A read takes one event and counts it, so enough events stay for the reads
that the invariant still allows. -/
theorem syncCompletesWhenAnswered : Obligations.SyncCompletesWhenAnswered := by
  intro s hinv hbusy hh hevents
  have h : 3 * s.E.toNat ≤ s.pnrx.toNat + s.rx.length → completesCounting s := by
    refine running_induction (P := fun s => 3 * s.E.toNat ≤ s.pnrx.toNat + s.rx.length → completesCounting s)
      ?stuck ?done ?more hinv hh (busy_eq_true.mp hbusy)
    case stuck =>
      intro s hinv _ hread hx henough
      have hlt := (hinv.reads_le hread.1).2 hread
      rw [hx, List.length_nil] at henough
      omega
    case done =>
      intro s t hinv hh hs hmove ht _
      exact hmove.completesCounting hinv hh hs ht
    case more =>
      intro s t ev hinv hh hs hmove ht hx hnrx ih henough
      have hn : t.pnrx.toNat = s.pnrx.toNat + 1 := hnrx ▸ hinv.toNat_pnrx_add_one hs
      have hreads := hmove.reads_le hs hinv
      rw [hmove.frame.E, hn] at ih
      rw [hx, List.length_cons] at henough
      obtain ⟨k, u, hk, hrun, hu, hrop, used, hused, hcount⟩ := ih (by omega)
      rw [hmove.frame.E] at hk
      exact ⟨k + 1, u, by omega, (run_succ (step_of_syncMove hh hs hmove) k).trans hrun, hu, hrop, ev :: used,
        by rw [hx, hused, List.cons_append], by rw [List.length_cons]; omega⟩
  obtain ⟨k, t, hk, hrest⟩ := h hevents
  exact ⟨k, t, by omega, hrest⟩

end Sys2Proof.Machine
end

section
/-! PROOFS. What a step does not depend on (10_state.md section 4, 70_reset_and_hazards.md section 3): the request held
while an operation runs, and what earlier operations left. -/

namespace Sys2Proof.Machine

/-! ### The held request (R64, R208) -/

theorem SyncMove.with_req {s t : State} (h : SyncMove s t) (q : Option Request) :
    SyncMove { s with req := q } { t with req := q } := by
  cases h with
  | notBusy h => exact .notBusy h
  | unanswered h hx => exact .unanswered h hx
  | budget h hb => exact .budget h hb
  | timeout h rest hx => exact .timeout (s := { s with req := q }) h rest hx
  | error h rest hx => exact .error (s := { s with req := q }) h rest hx
  | hunt0 h hb b rest hx => exact .hunt0 (s := { s with req := q }) h hb b rest hx
  | lock h rest hx => exact .lock (s := { s with req := q }) h rest hx
  | exhausted h b rest hx hb hs => exact .exhausted (s := { s with req := q }) h b rest hx hb hs
  | hunt1 h b rest hx hb hs => exact .hunt1 (s := { s with req := q }) h b rest hx hb hs
  | lenHi h b rest hx => exact .lenHi (s := { s with req := q }) h b rest hx
  | mismatch h hi b rest hx hh ht => exact .mismatch (s := { s with req := q }) h hi b rest hx hh ht
  | length h hi b rest t hx hh ht => exact .length (s := { s with req := q }) h hi b rest t hx hh ht
  | body h hT hi b rest hx => exact .body (s := { s with req := q }) h hT hi b rest hx
  | verified h hT frame hf hl => exact .verified (s := { s with req := q }) h hT frame hf hl

/-- Settles O10: no move of the running SYNC reads or writes the request slot. -/
theorem heldRequestDoesNotDisturb : Obligations.HeldRequestDoesNotDisturb := by
  intro s t q hbusy hh hstep
  have hs := busy_eq_true.mp hbusy
  have hmove := syncMove_of_step hh hs hstep
  exact ⟨hmove.frame.req, step_of_syncMove hh hs (hmove.with_req q)⟩

/-! ### What earlier operations left (R38) -/

/-- What two machines that ran the same operation agree on once they are idle (R38). -/
def SameCompletion (s t : State) : Prop :=
  s.res = t.res ∧ (s.res.rop = .sync → s.fbuf = t.fbuf ∧ s.flen = t.flen) ∧
    (s.res.rop = .enc → ∀ i, i < 7 → Memory.read s.cbuf i = Memory.read t.cbuf i)

/-- A completion that writes no buffer is its record. -/
theorem sameCompletion_of_res {s t : State} (h : s.res = t.res) (hsync : s.res.rop ≠ .sync) (henc : s.res.rop ≠ .enc) :
    SameCompletion s t :=
  ⟨h, fun hrop => absurd hrop hsync, fun hrop => absurd hrop henc⟩

/-- Two machines at the same point of the same operation, running or complete. -/
structure InStep (s t : State) : Prop where
  operation : sameOperation s t
  completion : s.rs = .idle → SameCompletion s t

/-- Two running machines in step, with each register that the operation reads. -/
structure SameRun (s t : State) : Prop where
  rx : s.rx = t.rx
  rs : s.rs = t.rs
  E : s.E = t.E
  pol : s.pol = t.pol
  scan : s.scan = t.scan
  idx : s.idx = t.idx
  T : s.T = t.T
  pnrx : s.pnrx = t.pnrx
  plenf : s.plenf = t.plenf
  pmatch : s.pmatch = t.pmatch
  fbuf : s.fbuf = t.fbuf

theorem sameRun_of_sameOperation {s t : State} (h : sameOperation s t) (hs : s.rs ≠ .idle) : SameRun s t := by
  obtain ⟨hrx, -, -, hrs, hregs⟩ := h
  obtain ⟨hE, hpol, hscan, hidx, hT, hpnrx, hplenf, hpmatch, hfbuf⟩ := hregs (busy_eq_true.mpr hs)
  exact ⟨hrx, hrs, hE, hpol, hscan, hidx, hT, hpnrx, hplenf, hpmatch, hfbuf⟩

theorem SameRun.sameOperation {s t : State} (h : SameRun s t) (hreq : s.req = t.req) (hhost : s.host = t.host) :
    sameOperation s t :=
  ⟨h.rx, hreq, hhost, h.rs, fun _ => ⟨h.E, h.pol, h.scan, h.idx, h.T, h.pnrx, h.plenf, h.pmatch, h.fbuf⟩⟩

theorem SameRun.atRead {s t : State} (h : SameRun s t) (hread : atRead s) : atRead t := by
  rw [Machine.atRead, ← h.rs, ← h.scan, ← h.E, ← h.idx, ← h.T]
  exact hread

theorem SameRun.consume {s t : State} (h : SameRun s t) (rest : List RxEvent) :
    SameRun (consume rest s) (consume rest t) :=
  ⟨rfl, h.rs, h.E, h.pol, h.scan, h.idx, h.T, congrArg (· + 1) h.pnrx, h.plenf, h.pmatch, h.fbuf⟩

theorem SameRun.chargeByte {s t : State} (h : SameRun s t) (b : Byte) : SameRun (chargeByte b s) (chargeByte b t) :=
  ⟨h.rx, rfl, h.E, h.pol, congrArg (· + 1) h.scan, h.idx, h.T, h.pnrx, h.plenf, h.pmatch, h.fbuf⟩

theorem SameRun.storeByte {s t : State} (h : SameRun s t) (i : Nat) (b : Byte) :
    SameRun (storeByte i b s) (storeByte i b t) :=
  ⟨h.rx, h.rs, h.E, h.pol, h.scan, rfl, h.T, h.pnrx, h.plenf, h.pmatch, congrArg (Memory.write · i b) h.fbuf⟩

/-- The receive state that follows is no matter of what earlier operations left. -/
theorem SameRun.with_rs {s t : State} (h : SameRun s t) (rs : RecvState) :
    SameRun { s with rs := rs } { t with rs := rs } :=
  ⟨h.rx, rfl, h.E, h.pol, h.scan, h.idx, h.T, h.pnrx, h.plenf, h.pmatch, h.fbuf⟩

theorem SameRun.lengthRead {s t : State} (h : SameRun s t) (lenf : Half) (m : Bool) :
    SameRun { s with lenf := lenf, plenf := some lenf, pmatch := some m }
      { t with lenf := lenf, plenf := some lenf, pmatch := some m } :=
  ⟨h.rx, h.rs, h.E, h.pol, h.scan, h.idx, h.T, h.pnrx, rfl, rfl, h.fbuf⟩

theorem SameRun.target {s t : State} (h : SameRun s t) (T : BitVec 17) :
    SameRun { s with T := T, rs := .body } { t with T := T, rs := .body } :=
  ⟨h.rx, rfl, h.E, h.pol, h.scan, h.idx, rfl, h.pnrx, h.plenf, h.pmatch, h.fbuf⟩

/-- Two machines in step complete with the same record, frame and events (R110). -/
theorem SameRun.finishSync {s t : State} (h : SameRun s t) (st : Status) (c : Option (Half × Half)) :
    SameRun (finishSync st c s) (finishSync st c t) ∧ SameCompletion (finishSync st c s) (finishSync st c t) := by
  refine ⟨⟨h.rx, rfl, h.E, h.pol, h.scan, h.idx, h.T, h.pnrx, h.plenf, h.pmatch, h.fbuf⟩, ?_,
    fun _ => ⟨h.fbuf, h.idx⟩, fun hrop => by simp at hrop⟩
  rw [finishSync_res, finishSync_res, h.pnrx, h.plenf, h.pmatch]

/-- The machine at `s'` has a move that keeps it in step with `t`. -/
def Follows (s' t : State) : Prop := ∃ t', SyncMove s' t' ∧ SameRun t t' ∧ (t.rs = .idle → SameCompletion t t')

theorem follows_of_completion {s' u u' : State} {st : Status} {c : Option (Half × Half)} (h : SameRun u u')
    (hmove : SyncMove s' (finishSync st c u')) : Follows s' (finishSync st c u) :=
  ⟨_, hmove, (h.finishSync st c).1, fun _ => (h.finishSync st c).2⟩

theorem follows_of_running {s' u u' : State} (h : SameRun u u') (hu : u.rs ≠ .idle) (hmove : SyncMove s' u') :
    Follows s' u :=
  ⟨_, hmove, h, fun hidle => absurd hidle hu⟩

/-- A machine in step with one that moves makes the same move. -/
theorem SyncMove.sameRun {s t s' : State} (h : SyncMove s t) (hs : s.rs ≠ .idle) (hsame : SameRun s s') :
    Follows s' t := by
  have hrs := hsame.rs
  have hrx := hsame.rx
  cases h with
  | notBusy h => exact absurd h hs
  | unanswered hread hx => exact follows_of_running hsame hs (.unanswered (hsame.atRead hread) (hrx ▸ hx))
  | budget hr hb => exact follows_of_completion hsame (.budget (hrs ▸ hr) (hsame.scan ▸ hsame.E ▸ hb))
  | timeout hread rest hx =>
    exact follows_of_completion (hsame.consume rest) (.timeout (hsame.atRead hread) rest (hrx ▸ hx))
  | error hread rest hx =>
    exact follows_of_completion (hsame.consume rest) (.error (hsame.atRead hread) rest (hrx ▸ hx))
  | hunt0 hr hb b rest hx =>
    exact follows_of_running ((hsame.consume rest).chargeByte b) (chargeByte_rs_ne_idle b _)
      (.hunt0 (hrs ▸ hr) (hsame.scan ▸ hsame.E ▸ hb) b rest (hrx ▸ hx))
  | lock hr rest hx =>
    exact follows_of_running ((((hsame.consume rest).storeByte 0 Config.sync0).storeByte 1 Config.sync1).with_rs .lenHi)
      (by simp) (.lock (hrs ▸ hr) rest (hrx ▸ hx))
  | exhausted hr b rest hx hne hb =>
    exact follows_of_completion (hsame.consume rest)
      (.exhausted (hrs ▸ hr) b rest (hrx ▸ hx) hne (hsame.scan ▸ hsame.E ▸ hb))
  | hunt1 hr b rest hx hne hb =>
    exact follows_of_running ((hsame.consume rest).chargeByte b) (chargeByte_rs_ne_idle b _)
      (.hunt1 (hrs ▸ hr) b rest (hrx ▸ hx) hne (hsame.scan ▸ hsame.E ▸ hb))
  | lenHi hr b rest hx =>
    exact follows_of_running (((hsame.consume rest).storeByte 2 b).with_rs .lenLo) (by simp)
      (.lenHi (hrs ▸ hr) b rest (hrx ▸ hx))
  | mismatch hr hi b rest hx hh ht =>
    have hmove := SyncMove.mismatch (hrs ▸ hr) hi b rest (hrx ▸ hx) (hsame.fbuf ▸ hh) (hsame.pol ▸ hsame.E ▸ ht)
    rw [← hsame.E] at hmove
    exact follows_of_completion (((hsame.consume rest).storeByte 3 b).lengthRead _ _) hmove
  | length hr hi b rest t hx hh ht =>
    have hmove := SyncMove.length (hrs ▸ hr) hi b rest t (hrx ▸ hx) (hsame.fbuf ▸ hh) (hsame.pol ▸ hsame.E ▸ ht)
    rw [← hsame.E] at hmove
    refine follows_of_running ?_ (by simp) hmove
    exact (((hsame.consume rest).storeByte 3 b).lengthRead _ _).target t
  | body hr hT hi b rest hx =>
    have hmove := SyncMove.body (hrs ▸ hr) (hsame.idx ▸ hsame.T ▸ hT) (hsame.idx ▸ hi) b rest (hrx ▸ hx)
    rw [← hsame.idx] at hmove
    exact follows_of_running ((hsame.consume rest).storeByte _ b) (by simp [hr]) hmove
  | verified hr hT frame hf hl =>
    exact follows_of_completion hsame
      (.verified (hrs ▸ hr) (hsame.idx ▸ hsame.T ▸ hT) frame (hsame.fbuf ▸ hsame.T ▸ hf) hl)

theorem SyncMove.inStep {s t s' : State} (h : SyncMove s t) (hs : s.rs ≠ .idle) (hsame : sameOperation s s') :
    ∃ t', SyncMove s' t' ∧ InStep t t' := by
  obtain ⟨t', hmove, hrun, hdone⟩ := h.sameRun hs (sameRun_of_sameOperation hsame hs)
  obtain ⟨-, hreq, hhost, -, -⟩ := hsame
  refine ⟨t', hmove, hrun.sameOperation ?_ ?_, hdone⟩
  · rw [h.frame.req, hmove.frame.req, hreq]
  · rw [h.frame.host, hmove.frame.host, hhost]

/-! ### Taking the same request -/

theorem startSync_sameRun (pol : Policy) (e : Byte) {s t : State} (hrx : s.rx = t.rx) :
    SameRun (startSync pol e s) (startSync pol e t) :=
  ⟨hrx, rfl, rfl, rfl, rfl, rfl, rfl, rfl, rfl, rfl, rfl⟩

theorem idle_sameOperation {s t : State} (hs : s.rs = .idle) (ht : t.rs = .idle) (hrx : s.rx = t.rx)
    (hreq : s.req = t.req) (hhost : s.host = t.host) : sameOperation s t :=
  ⟨hrx, hreq, hhost, hs.trans ht.symm, fun hbusy => absurd hs (busy_eq_true.mp hbusy)⟩

theorem acceptedState_inStep {i : Instr} (hi : i.wellFormed = true) {s t : State} (hrx : s.rx = t.rx)
    (hreq : s.req = t.req) (hhost : s.host = t.host) : InStep (acceptedState i s) (acceptedState i t) := by
  have sync (pol : Policy) (e : Byte) : InStep (startSync pol e s) (startSync pol e t) :=
    ⟨(startSync_sameRun pol e hrx).sameOperation hreq hhost, fun hidle => by simp at hidle⟩
  have command (code : Byte) (payload : Half) :
      InStep (encodeCommand code payload s) (encodeCommand code payload t) := by
    refine ⟨idle_sameOperation rfl rfl hrx hreq hhost, fun _ => ⟨rfl, fun hrop => by simp [Result.blank] at hrop,
      fun _ i hi => ?_⟩⟩
    rw [read_encodeCommand_cbuf, read_encodeCommand_cbuf, if_pos hi, if_pos hi]
  cases i with
  | syncS | syncT | readData | readStatus => exact sync _ _
  | enc | setPassive | setActive | reqRead | sleep | wake => exact command _ _
  | verify n ops =>
    obtain ⟨-, -, hlen⟩ := of_decide_eq_true hi
    refine ⟨idle_sameOperation rfl rfl hrx hreq hhost, fun _ => sameCompletion_of_res ?_ nofun nofun⟩
    rw [acceptedState, verifyBytes_of_length hlen, verifyBytes_of_length hlen]

theorem refuseRequest_inStep {s t : State} (hrx : s.rx = t.rx) (hreq : s.req = t.req) (hhost : s.host = t.host) :
    InStep (refuseRequest s) (refuseRequest t) :=
  ⟨idle_sameOperation rfl rfl hrx hreq hhost, fun _ => sameCompletion_of_res rfl nofun nofun⟩

/-- Two idle machines take the same request in step. -/
theorem takeWord_inStep (r : Request) {s t : State} (hs : s.rs = .idle) (ht : t.rs = .idle) (hrx : s.rx = t.rx)
    (hreq : s.req = t.req) (hhost : s.host = t.host) :
    ∃ s' t', takeWord r s = .next s' ∧ takeWord r t = .next t' ∧ InStep s' t' ∧ s'.req = s.req ∧ s'.host = s.host := by
  unfold takeWord
  cases decode r with
  | error => exact ⟨_, _, rfl, rfl, refuseRequest_inStep hrx hreq hhost, rfl, rfl⟩
  | ok i =>
    refine ⟨_, _, exec_idle i hs, exec_idle i ht, ?_⟩
    by_cases hi : i.wellFormed = true
    · rw [if_pos hi, if_pos hi]
      exact ⟨acceptedState_inStep hi hrx hreq hhost, by cases i <;> exact ⟨rfl, rfl⟩⟩
    · rw [if_neg hi, if_neg hi]
      exact ⟨refuseRequest_inStep hrx hreq hhost, rfl, rfl⟩

/-! ### Runs in step -/

/-- Settles O8: an idle block with nothing presented repeats its state. -/
theorem idleBlockWaits : Obligations.IdleBlockWaits := by
  intro s hs hreq hh
  rw [step_block hh, blockStep, hs, hreq]

theorem run_inStep {k : Nat} {s t s' : State} (hsame : InStep s s') (hh : s.host = []) (hreq : s.req = none)
    (h : run k s = .next t) : ∃ t', run k s' = .next t' ∧ InStep t t' := by
  induction k generalizing s s' with
  | zero =>
    cases h
    exact ⟨s', rfl, hsame⟩
  | succ k ih =>
    obtain ⟨hrx, hreq', hhost', hrs, -⟩ := hsame.operation
    by_cases hs : s.rs = .idle
    · rw [run_fixed (idleBlockWaits s hs hreq hh)] at h
      cases h
      exact ⟨s', run_fixed (idleBlockWaits s' (hrs ▸ hs) (hreq' ▸ hreq) (hhost' ▸ hh)) _, hsame⟩
    · rw [run] at h
      split at h
      case h_1 u hstep =>
        have hmove := syncMove_of_step hh hs hstep
        obtain ⟨u', hmove', hu⟩ := hmove.inStep hs hsame.operation
        obtain ⟨t', hrun, ht⟩ := ih hu (hmove.frame.host.trans hh) (hmove.frame.req.trans hreq) h
        have hstep' := step_of_syncMove (hhost' ▸ hh) (hrs ▸ hs) hmove'
        exact ⟨t', (run_succ hstep' k).trans hrun, ht⟩
      case h_2 => cases h
      case h_3 => cases h

/-- Settles O50: the two machines take the request in step, and stay in step. -/
theorem operationsDoNotDependOnHistory : Obligations.OperationsDoNotDependOnHistory := by
  intro k s1 s2 t1 r hs1 hs2 hh1 hh2 hr1 hr2 hrx hrun
  obtain ⟨u1, u2, htake1, htake2, hu, hreq, hhost⟩ :=
    takeWord_inStep r (s := { s1 with req := none }) (t := { s2 with req := none }) hs1 hs2 hrx rfl (hh1.trans hh2.symm)
  rw [run_succ ((step_takes_request hs1 hh1 hr1).trans htake1)] at hrun
  obtain ⟨t2, hrun2, ht⟩ := run_inStep hu (hhost.trans hh1) hreq hrun
  obtain ⟨hrx', -, -, hrs', -⟩ := ht.operation
  exact ⟨t2, (run_succ ((step_takes_request hs2 hh2 hr2).trans htake2) k).trans hrun2, hrs', hrx',
    fun hidle => ht.completion (busy_eq_false.mp hidle)⟩

end Sys2Proof.Machine
end

section
/-! PROOFS. The two forms of SYNC (40_receive.md section 7, R123): the function form in the parts that the receive
states name, what is left of it at each state of a run, and the diagram that commutes at each move. -/

namespace Sys2Proof.Machine

/-! ### The function form, part by part -/

/-- The end of a reading whose first bytes are already there. -/
def TakeEnd.prepend (bs : List Byte) : TakeEnd → TakeEnd
  | .got more left => .got (bs ++ more) left
  | .ended st more left => .ended st (bs ++ more) left
  | .unanswered => .unanswered

@[simp] theorem TakeEnd.prepend_nil (te : TakeEnd) : te.prepend [] = te := by cases te <;> rfl

theorem TakeEnd.prepend_prepend (bs cs : List Byte) (te : TakeEnd) :
    (te.prepend cs).prepend bs = te.prepend (bs ++ cs) := by
  cases te <;> simp [TakeEnd.prepend]

theorem takeBytes_byte (k : Nat) (b : Byte) (rest : List RxEvent) :
    takeBytes (k + 1) (.byte b :: rest) = (takeBytes k rest).prepend [b] := by
  rw [takeBytes]
  cases takeBytes k rest <;> rfl

theorem takeBytes_zero (rx : List RxEvent) : takeBytes 0 rx = .got [] rx := by rw [takeBytes]

theorem takeBytes_unanswered {k : Nat} (h : k ≠ 0) : takeBytes k [] = .unanswered := by
  cases k with
  | zero => exact absurd rfl h
  | succ k => rw [takeBytes]

/-- The events that end an operation at a read, with the status they give it (R101). -/
inductive Ends : RxEvent → Status → Prop
  | timeout : Ends .timeout .timeout
  | error : Ends .error .transportError

theorem takeBytes_ends {ev : RxEvent} {st : Status} (h : Ends ev st) {k : Nat} (hk : k ≠ 0) (rest : List RxEvent) :
    takeBytes k (ev :: rest) = .ended st [] rest := by
  cases k with
  | zero => exact absurd rfl hk
  | succ k => cases h <;> rw [takeBytes]

theorem huntStream_ends {ev : RxEvent} {st : Status} (h : Ends ev st) {budget charged : Nat} {pending : Bool}
    (hb : ¬ (pending = false ∧ charged = budget)) (rest : List RxEvent) :
    huntStream budget pending charged (ev :: rest) = .ended st (charged + 1) rest := by
  cases h <;> simp only [huntStream, hb, if_false]

/-- The record of a SYNC that knows its length field, after `reads` reads (R105, R110). -/
def lengthRecord (e reads : Nat) (lenf : Half) (st : Status) : Result :=
  { Result.blank st .sync (BitVec.ofNat 8 reads) with
    lenf_r := some lenf, lmatch := some (decide (lenf.toNat + 4 = e)) }

/-- The rest of the function form in `BODY`, where `head` is the frame up to the length field and `base` the number of
reads it took. -/
def bodyOutcome (e base : Nat) (head : List Byte) (lenf : Half) : TakeEnd → Option SyncOutcome
  | .unanswered => none
  | .ended st bs left => some ⟨lengthRecord e (base + (bs.length + 1)) lenf st, head ++ bs, left⟩
  | .got bs left =>
    some ⟨{ lengthRecord e (base + bs.length) lenf (verdict (computed (head ++ bs)) (stored (head ++ bs))) with
            csc := some (computed (head ++ bs)), csr := some (stored (head ++ bs)) }, head ++ bs, left⟩

/-- The rest of the function form once the sync is found after `nrx` reads. -/
def lengthOutcome (pol : Policy) (e nrx : Nat) : TakeEnd → Option SyncOutcome
  | .unanswered => none
  | .ended st bs left =>
    some ⟨Result.blank st .sync (BitVec.ofNat 8 (nrx + bs.length + 1)), Config.sync0 :: Config.sync1 :: bs, left⟩
  | .got bs left =>
    let lenf := be16 (bs.getD 0 0) (bs.getD 1 0)
    let head := Config.sync0 :: Config.sync1 :: bs
    match streamTarget pol lenf.toNat e with
    | none => some ⟨lengthRecord e (nrx + 2) lenf .lengthMismatch, head, left⟩
    | some t => bodyOutcome e (nrx + 2) head lenf (takeBytes (t - 4) left)

/-- The rest of the function form after the hunt. -/
def huntOutcome (pol : Policy) (e : Nat) : HuntEnd → Option SyncOutcome
  | .unanswered => none
  | .ended st nrx left => some ⟨Result.blank st .sync (BitVec.ofNat 8 nrx), [], left⟩
  | .locked nrx left => lengthOutcome pol e nrx (takeBytes 2 left)

theorem syncStream_eq (pol : Policy) (e : Nat) (rx : List RxEvent) :
    syncStream pol e rx = huntOutcome pol e (huntStream (2 * e + 1) false 0 rx) := by
  unfold syncStream huntOutcome
  cases huntStream (2 * e + 1) false 0 rx with
  | ended | unanswered => rfl
  | locked nrx left =>
    dsimp only
    unfold lengthOutcome
    cases takeBytes 2 left with
    | ended | unanswered => rfl
    | got bs left =>
      dsimp only
      cases streamTarget pol (be16 (bs.getD 0 0) (bs.getD 1 0)).toNat e with
      | none => rfl
      | some t =>
        dsimp only
        unfold bodyOutcome
        cases takeBytes (t - 4) left <;> rfl

/-! ### What is left of the function form at a state of the run -/

/-- What the function form gives from where the running SYNC stands: the bytes it has stored are read already. -/
def remaining (s : State) : Option SyncOutcome :=
  match s.rs with
  | .idle => none
  | .hunt0 => huntOutcome s.pol s.E.toNat (huntStream (scanBudget s.E) false s.scan.toNat s.rx)
  | .hunt1 => huntOutcome s.pol s.E.toNat (huntStream (scanBudget s.E) true s.scan.toNat s.rx)
  | .lenHi => lengthOutcome s.pol s.E.toNat s.pnrx.toNat (takeBytes 2 s.rx)
  | .lenLo =>
    lengthOutcome s.pol s.E.toNat (s.pnrx.toNat - 1) ((takeBytes 1 s.rx).prepend ((bytesOf s.fbuf).drop 2))
  | .body =>
    bodyOutcome s.E.toNat (s.pnrx.toNat + 4 - s.idx.toNat) ((bytesOf s.fbuf).take 4) s.lenf
      ((takeBytes (s.T.toNat - s.idx.toNat) s.rx).prepend ((bytesOf s.fbuf).drop 4))

theorem remaining_startSync (pol : Policy) {e : Byte} (s : State) (he : e.toNat ≤ 32) :
    remaining (startSync pol e s) = syncStream pol e.toNat s.rx := by
  rw [syncStream_eq]
  simp only [remaining, startSync_rs, startSync_pol, startSync_E, startSync_scan, startSync_rx, scanBudget,
    toNat_setWidth_six he]
  rfl

/-! ### The diagram, move by move -/

/-- The outcome that a completed state shows. -/
def shown (t : State) : SyncOutcome := ⟨t.res, bytesOf t.fbuf, t.rx⟩

/-- The bits of a count are the count. -/
theorem ofNat_of_toNat {n : Nat} {v : BitVec 8} (h : n = v.toNat) : BitVec.ofNat 8 n = v := by
  rw [h, BitVec.ofNat_toNat, BitVec.setWidth_eq]

/-- In `BODY` the record of the registers is the record of the function form. -/
theorem RunInv.lengthRecord_body {s : State} (h : RunInv s) (hr : s.rs = .body) {n : Nat} {v : BitVec 8}
    (hn : n = v.toNat) (st : Status) :
    lengthRecord s.E.toNat n s.lenf st =
      { st := st, rop := .sync, nrx := v, lenf_r := s.plenf, lmatch := s.pmatch, csc := none, csr := none } := by
  obtain ⟨-, hplenf, hpmatch, -⟩ := h.content_body hr
  rw [hplenf, hpmatch, lengthRecord, ofNat_of_toNat hn]
  rfl

/-- The hunt's record, with no length field. -/
theorem blank_eq {s : State} (h : s.plenf = none ∧ s.pmatch = none) {n : Nat} {v : BitVec 8} (hn : n = v.toNat)
    (st : Status) :
    Result.blank st .sync (BitVec.ofNat 8 n) =
      { st := st, rop := .sync, nrx := v, lenf_r := s.plenf, lmatch := s.pmatch, csc := none, csr := none } := by
  obtain ⟨hplenf, hpmatch⟩ := h
  rw [hplenf, hpmatch, ofNat_of_toNat hn]
  rfl

/-- The frame in `BODY`, cut after the length field. -/
theorem RunInv.length_body {s : State} (h : RunInv s) (hr : s.rs = .body) :
    (bytesOf s.fbuf).length = s.idx.toNat ∧ ((bytesOf s.fbuf).drop 4).length = s.idx.toNat - 4 := by
  have hlen := length_bytesOf (h.filled_running (by simp [hr]))
  exact ⟨hlen, by rw [List.length_drop, hlen]⟩

theorem remaining_unanswered {s : State} (hinv : RunInv s) (hread : atRead s) (hx : s.rx = []) :
    remaining s = none := by
  obtain ⟨hs, hbudget, hT⟩ := hread
  cases hr : s.rs with
  | idle => exact absurd hr hs
  | hunt0 => simp [remaining, hr, hx, huntStream, hbudget hr, huntOutcome]
  | hunt1 => simp [remaining, hr, hx, huntStream, huntOutcome]
  | lenHi => simp [remaining, hr, hx, takeBytes, lengthOutcome]
  | lenLo => simp [remaining, hr, hx, takeBytes, TakeEnd.prepend, lengthOutcome]
  | body =>
    obtain ⟨-, hidx, -⟩ := hinv.counters_body hr
    have hne := hT hr
    simp only [remaining, hr, hx, takeBytes_unanswered (show s.T.toNat - s.idx.toNat ≠ 0 by omega), TakeEnd.prepend,
      bodyOutcome]

/-- A Timeout or an Error event, at any read (R101). -/
theorem remaining_ends {s : State} (hinv : RunInv s) (hread : atRead s) {ev : RxEvent} {st : Status} (hev : Ends ev st)
    {rest : List RxEvent} (hx : s.rx = ev :: rest) :
    remaining s = some (shown (finishSync st none (consume rest s))) := by
  obtain ⟨hs, hbudget, hT⟩ := hread
  have hnrx := hinv.toNat_pnrx_add_one hs
  cases hr : s.rs with
  | idle => exact absurd hr hs
  | hunt0 =>
    obtain ⟨-, hn, -⟩ := hinv.counters_hunt (.inl hr)
    simp only [remaining, hr, hx, huntStream_ends hev (fun h => hbudget hr h.2), huntOutcome]
    rw [blank_eq (hinv.content_hunt (.inl hr)) (v := s.pnrx + 1) (by omega), shown, finishSync_fbuf, consume_fbuf,
      hinv.fbuf_hunt (.inl hr)]
    rfl
  | hunt1 =>
    obtain ⟨-, hn, -⟩ := hinv.counters_hunt (.inr hr)
    simp only [remaining, hr, hx, huntStream_ends hev (fun h => Bool.false_ne_true h.1.symm), huntOutcome]
    rw [blank_eq (hinv.content_hunt (.inr hr)) (v := s.pnrx + 1) (by omega), shown, finishSync_fbuf, consume_fbuf,
      hinv.fbuf_hunt (.inr hr)]
    rfl
  | lenHi =>
    obtain ⟨hbytes, hcontent⟩ := hinv.content_lenHi hr
    simp only [remaining, hr, hx, takeBytes_ends hev (Nat.succ_ne_zero 1), lengthOutcome, List.length_nil]
    rw [blank_eq hcontent (v := s.pnrx + 1) (by omega), shown, finishSync_fbuf, consume_fbuf, hbytes]
    rfl
  | lenLo =>
    obtain ⟨hi, -, hbytes⟩ := hinv.bytes_lenLo hr
    obtain ⟨-, hcontent⟩ := hinv.content_lenLo hr
    obtain ⟨-, hn, -⟩ := hinv.counters_lenLo hr
    simp only [remaining, hr, hx, takeBytes_ends hev (Nat.succ_ne_zero 0), TakeEnd.prepend, lengthOutcome, hbytes]
    rw [blank_eq hcontent (v := s.pnrx + 1) (by simp; omega), shown, finishSync_fbuf, consume_fbuf, hbytes]
    rfl
  | body =>
    obtain ⟨hidx, hidxT, -, hn, -⟩ := hinv.counters_body hr
    obtain ⟨-, hdrop⟩ := hinv.length_body hr
    have hne := hT hr
    simp only [remaining, hr, hx, takeBytes_ends hev (show s.T.toNat - s.idx.toNat ≠ 0 by omega), TakeEnd.prepend,
      bodyOutcome, List.append_nil, List.take_append_drop, hdrop]
    rw [hinv.lengthRecord_body hr (v := s.pnrx + 1) (by omega)]
    rfl

/-- The budget is used up, before a read or at a byte that is no `0x4D` (R102, R104). -/
theorem remaining_exhausted {s : State} (hinv : RunInv s) (hb : s.scan.toNat = scanBudget s.E) :
    (s.rs = .hunt0 → remaining s = some (shown (finishSync .timeout none s))) ∧
      ∀ b rest, s.rs = .hunt1 → s.rx = .byte b :: rest → b ≠ Config.sync1 →
        remaining s = some (shown (finishSync .timeout none (consume rest s))) := by
  constructor
  · intro hr
    obtain ⟨-, hn, -⟩ := hinv.counters_hunt (.inl hr)
    have hhunt : huntStream (scanBudget s.E) false s.scan.toNat s.rx = .ended .timeout s.scan.toNat s.rx := by
      cases s.rx <;> simp [huntStream, hb]
    simp only [remaining, hr, hhunt, huntOutcome]
    rw [blank_eq (hinv.content_hunt (.inl hr)) hn.symm, shown, finishSync_fbuf, hinv.fbuf_hunt (.inl hr)]
    rfl
  · intro b rest hr hx hne
    obtain ⟨-, hn, -⟩ := hinv.counters_hunt (.inr hr)
    have hnrx := hinv.toNat_pnrx_add_one (s := s) (by simp [hr])
    simp only [remaining, hr, hx, huntStream, hb, hne, huntOutcome, if_true, and_false, if_false, Bool.true_eq_false,
      false_and]
    rw [blank_eq (hinv.content_hunt (.inr hr)) (v := s.pnrx + 1) (by omega), shown, finishSync_fbuf, consume_fbuf,
      hinv.fbuf_hunt (.inr hr)]
    rfl

/-- A byte charged within the budget (R102 to R104). -/
theorem remaining_chargeByte {s : State} (hinv : RunInv s) (hb : s.scan.toNat ≠ scanBudget s.E) {b : Byte}
    {rest : List RxEvent} (hx : s.rx = .byte b :: rest) (hr : s.rs = .hunt0 ∨ (s.rs = .hunt1 ∧ b ≠ Config.sync1)) :
    remaining s = remaining (chargeByte b (consume rest s)) := by
  have hscan' := hinv.toNat_scan_add_one (hr.imp_right And.left)
  have hnext : remaining (chargeByte b (consume rest s)) =
      huntOutcome s.pol s.E.toNat
        (huntStream (scanBudget s.E) (decide (b = Config.sync0)) (s.scan.toNat + 1) rest) := by
    by_cases hsync : b = Config.sync0 <;>
      simp only [remaining, chargeByte_rs, hsync, if_true, if_false, decide_true, decide_false, chargeByte_pol,
        consume_pol, chargeByte_E, consume_E, chargeByte_scan, consume_scan, hscan', chargeByte_rx, consume_rx]
  rw [hnext]
  rcases hr with hr | ⟨hr, hne⟩
  · simp [remaining, hr, hx, huntStream, hb]
  · simp [remaining, hr, hx, huntStream, hb, hne]

/-- The sync is found (R104). -/
theorem remaining_lockSync {s : State} (hinv : RunInv s) (hr : s.rs = .hunt1) {rest : List RxEvent}
    (hx : s.rx = .byte Config.sync1 :: rest) : remaining s = remaining (lockSync (consume rest s)) := by
  obtain ⟨-, hn, -⟩ := hinv.counters_hunt (.inr hr)
  have hnrx := hinv.toNat_pnrx_add_one (s := s) (by simp [hr])
  have hhunt : huntStream (scanBudget s.E) true s.scan.toNat s.rx = .locked (s.scan.toNat + 1) rest := by
    simp [hx, huntStream]
  simp only [remaining, hr, hhunt, huntOutcome, lockSync_rs, lockSync_pol, consume_pol, lockSync_E, consume_E,
    lockSync_pnrx, consume_pnrx, hnrx, hn, lockSync_rx, consume_rx]

/-- The high length byte (R105). -/
theorem remaining_lenHi {s : State} (hinv : RunInv s) (hr : s.rs = .lenHi) {b : Byte} {rest : List RxEvent}
    (hx : s.rx = .byte b :: rest) : remaining s = remaining { storeByte 2 b (consume rest s) with rs := .lenLo } := by
  have hfill := hinv.filled_running (by simp [hr])
  obtain ⟨hidx, -, -⟩ := hinv.counters_lenHi hr
  obtain ⟨hbytes, -⟩ := hinv.content_lenHi hr
  rw [hidx] at hfill
  have hnrx := hinv.toNat_pnrx_add_one (s := s) (by simp [hr])
  simp only [remaining, hr, hx, takeBytes_byte, storeByte_pol, consume_pol, storeByte_E, consume_E, storeByte_pnrx,
    consume_pnrx, hnrx, Nat.add_sub_cancel, storeByte_fbuf, consume_fbuf, bytesOf_write hfill, hbytes, storeByte_rx,
    consume_rx, List.cons_append, List.nil_append, List.drop_succ_cons, List.drop_zero]

/-- The target length is the same number in both forms (R106, R107). -/
theorem streamTarget_eq (pol : Policy) (lenf : Half) (e : BitVec 6) :
    streamTarget pol lenf.toNat e.toNat = (targetLen pol lenf e).map BitVec.toNat := by
  have hE := e.isLt
  cases pol with
  | strict =>
    have hwidth : (e.setWidth 17).toNat = e.toNat := by rw [BitVec.toNat_setWidth, Nat.mod_eq_of_lt (by omega)]
    by_cases h : lenf.toNat + 4 = e.toNat <;> simp [streamTarget, targetLen, h, hwidth]
  | tolerant =>
    have hwidth : (BitVec.ofNat 17 (min (lenf.toNat + 4) e.toNat)).toNat = min (lenf.toNat + 4) e.toNat := by
      rw [BitVec.toNat_ofNat, Nat.mod_eq_of_lt (by omega)]
    simp [streamTarget, targetLen, hwidth]

/-- The rest of the function form at the low length byte, with the length field of the two bytes. -/
theorem remaining_lenLo {s : State} (hinv : RunInv s) (hr : s.rs = .lenLo) {hi b : Byte} {rest : List RxEvent}
    (hx : s.rx = .byte b :: rest) (hh : Memory.read s.fbuf 2 = some hi) :
    remaining s =
      match targetLen s.pol (be16 hi b) s.E with
      | none =>
        some ⟨lengthRecord s.E.toNat (s.pnrx.toNat + 1) (be16 hi b) .lengthMismatch,
          [Config.sync0, Config.sync1, hi, b], rest⟩
      | some t =>
        bodyOutcome s.E.toNat (s.pnrx.toNat + 1) [Config.sync0, Config.sync1, hi, b] (be16 hi b)
          (takeBytes (t.toNat - 4) rest) := by
  obtain ⟨hi', hread, hbytes⟩ := hinv.bytes_lenLo hr
  obtain rfl : hi = hi' := Option.some.inj (hh.symm.trans hread)
  obtain ⟨-, hn, -⟩ := hinv.counters_lenLo hr
  have hreads : s.pnrx.toNat - 1 + 2 = s.pnrx.toNat + 1 := by omega
  simp only [remaining, hr, hx, takeBytes_byte, takeBytes_zero, TakeEnd.prepend, hbytes, lengthOutcome,
    List.drop_succ_cons, List.drop_zero, List.append_nil, List.cons_append, List.nil_append, List.getD_cons_zero,
    List.getD_cons_succ, streamTarget_eq, hreads]
  cases targetLen s.pol (be16 hi b) s.E <;> rfl

/-- The low length byte gives a Strict mismatch (R106). -/
theorem remaining_mismatch {s : State} (hinv : RunInv s) (hr : s.rs = .lenLo) {hi b : Byte} {rest : List RxEvent}
    (hx : s.rx = .byte b :: rest) (hh : Memory.read s.fbuf 2 = some hi)
    (ht : targetLen s.pol (be16 hi b) s.E = none) :
    remaining s = some (shown (finishSync .lengthMismatch none
      { storeByte 3 b (consume rest s) with
        lenf := be16 hi b, plenf := some (be16 hi b), pmatch := some (lengthMatches (be16 hi b) s.E) })) := by
  have hfill := hinv.filled_running (by simp [hr])
  obtain ⟨hidx, -, -⟩ := hinv.counters_lenLo hr
  rw [hidx] at hfill
  obtain ⟨hi', hread, hbytes⟩ := hinv.bytes_lenLo hr
  obtain rfl : hi = hi' := Option.some.inj (hh.symm.trans hread)
  have hnrx := hinv.toNat_pnrx_add_one (s := s) (by simp [hr])
  rw [remaining_lenLo hinv hr hx hh, ht, shown, finishSync_fbuf, storeByte_fbuf, consume_fbuf, bytesOf_write hfill,
    hbytes]
  dsimp only
  rw [lengthRecord, ofNat_of_toNat hnrx.symm]
  rfl

/-- The low length byte gives the target length (R105 to R107). -/
theorem remaining_length {s : State} (hinv : RunInv s) (hr : s.rs = .lenLo) {hi b : Byte} {rest : List RxEvent}
    {t : BitVec 17} (hx : s.rx = .byte b :: rest) (hh : Memory.read s.fbuf 2 = some hi)
    (ht : targetLen s.pol (be16 hi b) s.E = some t) :
    remaining s = remaining
      { storeByte 3 b (consume rest s) with
        lenf := be16 hi b, plenf := some (be16 hi b), pmatch := some (lengthMatches (be16 hi b) s.E)
        T := t, rs := .body } := by
  have hfill := hinv.filled_running (by simp [hr])
  obtain ⟨hidx, -, -⟩ := hinv.counters_lenLo hr
  rw [hidx] at hfill
  obtain ⟨hi', hread, hbytes⟩ := hinv.bytes_lenLo hr
  obtain rfl : hi = hi' := Option.some.inj (hh.symm.trans hread)
  have hnrx := hinv.toNat_pnrx_add_one (s := s) (by simp [hr])
  rw [remaining_lenLo hinv hr hx hh, ht]
  have hbase : s.pnrx.toNat + 1 + 4 - 4 = s.pnrx.toNat + 1 := rfl
  have hidx' : (BitVec.ofNat 6 (3 + 1)).toNat = 4 := rfl
  simp only [remaining, storeByte_E, consume_E, storeByte_pnrx, consume_pnrx, hnrx, storeByte_idx, hidx', hbase,
    storeByte_fbuf, consume_fbuf, bytesOf_write hfill, hbytes, storeByte_rx, consume_rx, List.cons_append,
    List.nil_append, List.take_succ_cons, List.take_zero, List.drop_succ_cons, List.drop_zero, TakeEnd.prepend_nil]

/-- A body byte (R108). -/
theorem remaining_body {s : State} (hinv : RunInv s) (hr : s.rs = .body) (hT : s.idx.toNat ≠ s.T.toNat) {b : Byte}
    {rest : List RxEvent} (hx : s.rx = .byte b :: rest) :
    remaining s = remaining (storeByte s.idx.toNat b (consume rest s)) := by
  obtain ⟨hidx, hidxT, hTE, hn, -⟩ := hinv.counters_body hr
  obtain ⟨-, hmax⟩ := hinv.E_bounds (by simp [hr])
  obtain ⟨hlen, -⟩ := hinv.length_body hr
  have hnrx := hinv.toNat_pnrx_add_one (s := s) (by simp [hr])
  have hidx' : (BitVec.ofNat 6 (s.idx.toNat + 1)).toNat = s.idx.toNat + 1 := by
    rw [BitVec.toNat_ofNat, Nat.mod_eq_of_lt (by omega)]
  obtain ⟨k, hk⟩ : ∃ k, s.T.toNat - s.idx.toNat = k + 1 := ⟨s.T.toNat - s.idx.toNat - 1, by omega⟩
  have hk' : s.T.toNat - (s.idx.toNat + 1) = k := by omega
  have hbase : s.pnrx.toNat + 1 + 4 - (s.idx.toNat + 1) = s.pnrx.toNat + 4 - s.idx.toNat := by omega
  have hfour : 4 ≤ (bytesOf s.fbuf).length := by omega
  simp only [remaining, storeByte_rs, consume_rs, hr, storeByte_E, consume_E, storeByte_pnrx, consume_pnrx, hnrx,
    storeByte_idx, hidx', storeByte_fbuf, consume_fbuf, bytesOf_write (hinv.filled_running (by simp [hr])),
    storeByte_lenf, consume_lenf, storeByte_T, consume_T, storeByte_rx, consume_rx, hx, hk, hk', hbase, takeBytes_byte,
    TakeEnd.prepend_prepend, List.take_append_of_le_length hfour, List.drop_append_of_le_length hfour]

/-- Verification (R109). -/
theorem remaining_verified {s : State} (hinv : RunInv s) (hr : s.rs = .body) (hT : s.idx.toNat = s.T.toNat)
    {frame : List Byte} (hf : Memory.readFrom s.fbuf 0 s.T.toNat = some frame) :
    remaining s = some (shown (finishSync (verdict (computed frame) (stored frame))
      (some (computed frame, stored frame)) s)) := by
  rw [← hT, readFrom_whole (hinv.filled_running (by simp [hr])), Option.some.injEq] at hf
  obtain ⟨hidx, -, -, hn, -⟩ := hinv.counters_body hr
  obtain ⟨-, hdrop⟩ := hinv.length_body hr
  simp only [remaining, hr, ← hT, Nat.sub_self, takeBytes_zero, TakeEnd.prepend, bodyOutcome, List.append_nil,
    List.take_append_drop, hdrop]
  rw [hinv.lengthRecord_body hr (v := s.pnrx) (by omega), hf]
  exact congrArg (fun bs => some (SyncOutcome.mk _ bs s.rx)) hf.symm

/-- The diagram at a move from `s` to `t`: where it completes, `t` shows what was left of the function form, and else
the same is left at `t`. -/
def Commutes (s t : State) : Prop :=
  (t.rs = .idle → remaining s = some (shown t)) ∧ (t.rs ≠ .idle → remaining s = remaining t)

theorem commutes_of_completion {s t : State} (ht : t.rs = .idle) (h : remaining s = some (shown t)) : Commutes s t :=
  ⟨fun _ => h, fun hne => absurd ht hne⟩

theorem commutes_of_running {s t : State} (ht : t.rs ≠ .idle) (h : remaining s = remaining t) : Commutes s t :=
  ⟨fun hi => absurd hi ht, fun _ => h⟩

theorem SyncMove.commutes {s t : State} (h : SyncMove s t) (hinv : RunInv s) (hs : s.rs ≠ .idle) : Commutes s t := by
  cases h with
  | notBusy | unanswered => exact commutes_of_running hs rfl
  | budget hr hb => exact commutes_of_completion rfl ((remaining_exhausted hinv hb).1 hr)
  | timeout hread rest hx => exact commutes_of_completion rfl (remaining_ends hinv hread .timeout hx)
  | error hread rest hx => exact commutes_of_completion rfl (remaining_ends hinv hread .error hx)
  | hunt0 hr hb b rest hx =>
    exact commutes_of_running (chargeByte_rs_ne_idle b _) (remaining_chargeByte hinv hb hx (.inl hr))
  | lock hr rest hx => exact commutes_of_running (by simp) (remaining_lockSync hinv hr hx)
  | exhausted hr b rest hx hne hb => exact commutes_of_completion rfl ((remaining_exhausted hinv hb).2 b rest hr hx hne)
  | hunt1 hr b rest hx hne hb =>
    exact commutes_of_running (chargeByte_rs_ne_idle b _) (remaining_chargeByte hinv hb hx (.inr ⟨hr, hne⟩))
  | lenHi hr b rest hx => exact commutes_of_running (by simp) (remaining_lenHi hinv hr hx)
  | mismatch hr hi b rest hx hh ht => exact commutes_of_completion rfl (remaining_mismatch hinv hr hx hh ht)
  | length hr hi b rest t hx hh ht => exact commutes_of_running (by simp) (remaining_length hinv hr hx hh ht)
  | body hr hT _ b rest hx => exact commutes_of_running hs (remaining_body hinv hr hT hx)
  | verified hr hT frame hf => exact commutes_of_completion rfl (remaining_verified hinv hr hT hf)

/-! ### The runs that the function form describes -/

/-- A run from `s` reaches a completion with the outcome `o`, leaving the held request and `cbuf`. -/
def CompletesWith (s : State) (o : SyncOutcome) : Prop :=
  ∃ k t, run k s = .next t ∧ t.busy = false ∧ t.res = o.result ∧ t.rx = o.left ∧
    t.fbuf = (List.range o.frame.length).zip o.frame ∧ t.flen.toNat = o.frame.length ∧ t.req = s.req ∧ t.cbuf = s.cbuf

/-- Every run from `s` is still busy (R190). -/
def StaysBusy (s : State) : Prop := ∀ k, ∃ t, run k s = .next t ∧ t.busy = true

/-- What the function form gives is what the runs from `s` do. -/
def RunsAs (s : State) (o? : Option SyncOutcome) : Prop :=
  (∀ o, o? = some o → CompletesWith s o) ∧ (o? = none → StaysBusy s)

theorem CompletesWith.of_step {s t : State} {o : SyncOutcome} (h : CompletesWith t o) (hstep : step s = .next t)
    (hreq : t.req = s.req) (hcbuf : t.cbuf = s.cbuf) : CompletesWith s o := by
  obtain ⟨k, u, hrun, hidle, hres, hrx, hfbuf, hflen, hureq, hucbuf⟩ := h
  exact ⟨k + 1, u, (run_succ hstep k).trans hrun, hidle, hres, hrx, hfbuf, hflen, hureq.trans hreq,
    hucbuf.trans hcbuf⟩

theorem StaysBusy.of_step {s t : State} (h : StaysBusy t) (hs : s.busy = true) (hstep : step s = .next t) :
    StaysBusy s
  | 0 => ⟨s, rfl, hs⟩
  | k + 1 => by
    rw [run_succ hstep]
    exact h k

/-- A filled buffer is its bytes, numbered. -/
theorem filledTo.eq_zip {m : Memory} {k : Nat} (h : filledTo m k) : m = (List.range k).zip (bytesOf m) := by
  rw [← h, bytesOf, ← List.unzip_fst, ← List.unzip_snd, List.zip_unzip]

/-- The move that completes a SYNC shows its outcome (R110), also in a machine that ran in step with it. -/
theorem SyncMove.completesWith {s t s' : State} (h : SyncMove s t) (hinv : RunInv s) (hh : s.host = [])
    (hs : s.rs ≠ .idle) (ht : t.rs = .idle) (hsame : sameOperation s s') : CompletesWith s' (shown t) := by
  obtain ⟨t', hmove', hin⟩ := h.inStep hs hsame
  obtain ⟨-, -, hhost, hrs, -⟩ := hsame
  obtain ⟨hrx', -, -, hrs', -⟩ := hin.operation
  obtain ⟨hres, hbuf, -⟩ := hin.completion ht
  obtain ⟨hrop, -⟩ := h.completed hs ht
  obtain ⟨hfbuf, hflen⟩ := hbuf hrop
  have hfill := (h.runInv hs hinv).filled_idle ht
  have hlen : (bytesOf t.fbuf).length = t.flen.toNat := length_bytesOf hfill
  refine ⟨1, t', run_one (step_of_syncMove (hhost ▸ hh) (hrs ▸ hs) hmove'), busy_eq_false.mpr (hrs' ▸ ht), hres.symm,
    hrx'.symm, ?_, by rw [← hflen]; exact hlen.symm, hmove'.frame.req, hmove'.frame.cbuf⟩
  rw [shown, hlen, ← hfbuf]
  exact hfill.eq_zip

/-- From a running state with the invariant, and from any other in step with it, the runs do what is left of the
function form. -/
theorem runsAs_remaining {s s' : State} (hinv : RunInv s) (hh : s.host = []) (hs : s.rs ≠ .idle)
    (hsame : sameOperation s s') : RunsAs s' (remaining s) := by
  refine running_induction (P := fun s => ∀ s', sameOperation s s' → RunsAs s' (remaining s)) ?stuck ?done ?more hinv
    hh hs s' hsame
  case stuck =>
    intro s hinv hh hread hx s' hsame
    have hread' := (sameRun_of_sameOperation hsame hread.1).atRead hread
    obtain ⟨hrx, -, hhost, -, -⟩ := hsame
    rw [remaining_unanswered hinv hread hx]
    have hstep := step_unanswered hread' (hhost ▸ hh) (hrx ▸ hx)
    exact ⟨by simp, fun _ k => ⟨s', run_fixed hstep k, busy_eq_true.mpr hread'.1⟩⟩
  case done =>
    intro s t hinv hh hs hmove ht s' hsame
    rw [(hmove.commutes hinv hs).1 ht]
    exact ⟨fun o ho => Option.some.inj ho ▸ hmove.completesWith hinv hh hs ht hsame, by simp⟩
  case more =>
    intro s t ev hinv hh hs hmove ht _ _ ih s' hsame
    obtain ⟨t', hmove', hin⟩ := hmove.inStep hs hsame
    obtain ⟨-, -, hhost, hrs, -⟩ := hsame
    have hs' : s'.rs ≠ .idle := hrs ▸ hs
    have hstep := step_of_syncMove (hhost ▸ hh) hs' hmove'
    obtain ⟨hsome, hnone⟩ := ih t' hin.operation
    rw [(hmove.commutes hinv hs).2 ht]
    exact ⟨fun o ho => (hsome o ho).of_step hstep hmove'.frame.req hmove'.frame.cbuf,
      fun hn => (hnone hn).of_step (busy_eq_true.mpr hs') hstep⟩

/-! ### Acceptance -/

/-- A block after reset with the events and the host's side of `s` has the invariant, so what follows an acceptance does
not need it of `s`. -/
theorem runsAs_startSync (pol : Policy) {e : Byte} (he : legalLen e = true) {s : State} (hh : s.host = []) :
    RunsAs (startSync pol e s) (syncStream pol e.toNat s.rx) := by
  have hidle := resetBlock_runInv s
  have hinv : RunInv (startSync pol e (resetBlock s)) := (Taken.sync pol e he).runInv rfl hidle
  have hsame : sameOperation (startSync pol e (resetBlock s)) (startSync pol e s) :=
    (startSync_sameRun pol e rfl).sameOperation rfl rfl
  obtain ⟨-, hmax⟩ := of_decide_eq_true he
  have h := runsAs_remaining hinv hh (by simp) hsame
  rwa [remaining_startSync pol _ hmax] at h

/-- Settles O48: each of the four instructions starts the SYNC that the function form describes. -/
theorem stepFormIsStreamForm : Obligations.StepFormIsStreamForm := by
  intro s i pol e hi hmin hmax hs hh
  have he : legalLen e = true := decide_eq_true ⟨hmin, hmax⟩
  have hexec : exec i s = .next (startSync pol e s) := by
    rcases hi with ⟨rfl, rfl⟩ | ⟨rfl, rfl⟩ | ⟨rfl, rfl, rfl⟩ | ⟨rfl, rfl, rfl⟩
    · exact (takeRequest_idle hs).trans (by rw [if_pos he])
    · exact (takeRequest_idle hs).trans (by rw [if_pos he])
    · exact takeRequest_idle hs
    · exact takeRequest_idle hs
  obtain ⟨hsome, hnone⟩ := runsAs_startSync pol he hh
  exact ⟨_, hexec, hsome, hnone⟩

end Sys2Proof.Machine
end

section
/-! PROOFS. Garbage recovery (40_receive.md section 7, R119): the hunt of the function form on garbage before a valid
frame, and the run that shows its outcome. -/

namespace Sys2Proof.Machine

/-! ### The hunt on garbage (R102 to R104) -/

/-- The hunt remembers of the bytes it has read whether the last was `0x42`. -/
def pendingAfter (read : List Byte) : Bool := decide (read.getLast? = some Config.sync0)

theorem pendingAfter_concat (read : List Byte) (b : Byte) : pendingAfter (read ++ [b]) = decide (b = Config.sync0) := by
  simp [pendingAfter]

/-- Where the last byte was `0x42`, the next one of a list without a sync sequence is no `0x4D`. -/
theorem ne_sync1_of_noSyncPair {read more : List Byte} {b : Byte} (h : noSyncPair (read ++ b :: more))
    (hpending : pendingAfter read = true) : b ≠ Config.sync1 := by
  rintro rfl
  obtain ⟨front, rfl⟩ := List.getLast?_eq_some_iff.mp (of_decide_eq_true hpending)
  exact h front more (by simp)

/-- The hunt reads on through garbage while the budget lasts (R102 to R104). -/
theorem huntStream_garbage {budget : Nat} (g read : List Byte) (more : List RxEvent) (hg : noSyncPair (read ++ g))
    (hb : read.length + g.length ≤ budget) :
    huntStream budget (pendingAfter read) read.length (g.map .byte ++ more) =
      huntStream budget (pendingAfter (read ++ g)) (read ++ g).length more := by
  induction g generalizing read with
  | nil => simp
  | cons b g ih =>
    rw [List.length_cons] at hb
    have hne : read.length ≠ budget := by omega
    have hsync : ¬ (pendingAfter read = true ∧ b = Config.sync1) := fun ⟨hp, hb1⟩ => ne_sync1_of_noSyncPair hg hp hb1
    have hnext := ih (read ++ [b]) (by simpa using hg) (by simp; omega)
    rw [pendingAfter_concat, List.length_append, List.length_singleton, List.append_assoc,
      List.singleton_append] at hnext
    simp only [List.map_cons, List.cons_append, huntStream, hne, and_false, if_false, hsync, hnext]

/-- After at most `2E` garbage bytes the hunt finds the sync sequence that follows. -/
theorem huntStream_locks {budget : Nat} {g : List Byte} (hg : noSyncPair g) (hb : g.length < budget)
    (rest : List RxEvent) :
    huntStream budget false 0 (g.map .byte ++ .byte Config.sync0 :: .byte Config.sync1 :: rest) =
      .locked (g.length + 2) rest := by
  have hread := huntStream_garbage g [] (.byte Config.sync0 :: .byte Config.sync1 :: rest) hg
    (show 0 + g.length ≤ budget by omega)
  have hne : g.length ≠ budget := by omega
  have hsync : Config.sync0 ≠ Config.sync1 := by decide
  refine hread.trans ?_
  simp [huntStream, hne, hsync]

/-- The number of reads after which the budget ends a hunt through garbage: one more where the last charged byte was
`0x42`, since the byte after it is still read (R104). -/
def exhaustedReads (budget : Nat) (g : List Byte) : Nat := if pendingAfter (g.take budget) then budget + 1 else budget

/-- Longer garbage uses up the budget. -/
theorem huntStream_exhausted {budget : Nat} {g : List Byte} {b : Byte} (rest : List RxEvent)
    (hg : noSyncPair (g ++ [b])) (hb : budget ≤ g.length) :
    huntStream budget false 0 (g.map .byte ++ .byte b :: rest) =
      .ended .timeout (exhaustedReads budget g)
        ((g.map RxEvent.byte ++ .byte b :: rest).drop (exhaustedReads budget g)) := by
  obtain ⟨c, more, hsplit⟩ : ∃ c more, g ++ [b] = g.take budget ++ c :: more := by
    cases hdrop : g.drop budget with
    | nil =>
      refine ⟨b, [], ?_⟩
      rw [List.take_of_length_le (List.drop_eq_nil_iff.mp hdrop)]
    | cons c more =>
      exact ⟨c, more ++ [b], by rw [← List.cons_append, ← hdrop, ← List.append_assoc, List.take_append_drop]⟩
  have hlen : (g.take budget).length = budget := List.length_take_of_le hb
  have hstream : g.map RxEvent.byte ++ .byte b :: rest =
      (g.take budget).map .byte ++ .byte c :: (more.map .byte ++ rest) := by
    have hmap := congrArg (fun bs => bs.map RxEvent.byte ++ rest) hsplit
    simpa using hmap
  have hg' : noSyncPair (g.take budget ++ c :: more) := hsplit ▸ hg
  have hprefix : noSyncPair (g.take budget) := fun x y hxy => hg' x (y ++ c :: more) (by rw [hxy]; simp)
  have hread := huntStream_garbage (budget := budget) (g.take budget) [] (.byte c :: (more.map .byte ++ rest)) hprefix
    (by simp)
  rw [hstream]
  refine hread.trans ?_
  have hmaplen : ((g.take budget).map RxEvent.byte).length = budget := by rw [List.length_map, hlen]
  unfold exhaustedReads
  rw [List.nil_append, hlen]
  cases hp : pendingAfter (g.take budget) with
  | false =>
    have hleft := List.drop_left' (l₂ := .byte c :: (more.map .byte ++ rest)) hmaplen
    simp only [huntStream, and_self, if_true, Bool.false_eq_true, if_false, hleft]
  | true =>
    have hc := ne_sync1_of_noSyncPair hg' hp
    have hleft := List.drop_left' (l₂ := more.map RxEvent.byte ++ rest)
      (l₁ := (g.take budget).map RxEvent.byte ++ [.byte c]) (i := budget + 1)
      (by rw [List.length_append, hmaplen, List.length_singleton])
    rw [List.append_assoc, List.singleton_append] at hleft
    simp only [huntStream, Bool.true_eq_false, false_and, if_false, hc, and_false, if_true, hleft]

/-! ### The outcome, by the length of the garbage -/

/-- Reading bytes that all arrive. -/
theorem takeBytes_all (bs : List Byte) (rest : List RxEvent) :
    takeBytes bs.length (bs.map .byte ++ rest) = .got bs rest := by
  induction bs with
  | nil => rw [List.length_nil, takeBytes_zero]; rfl
  | cons b bs ih =>
    rw [List.length_cons, List.map_cons, List.cons_append, takeBytes_byte, ih]
    rfl

/-- A valid frame after at most `2E` garbage bytes is received with OK (R119). -/
theorem syncStream_recovers {g f : List Byte} (hg : noSyncPair g) (hf : validFrame f) (hlen : g.length ≤ 2 * f.length)
    (rest : List RxEvent) :
    ∃ o, syncStream .strict f.length (g.map .byte ++ f.map .byte ++ rest) = some o ∧ o.result.st = .ok ∧
      o.result.rop = .sync ∧ o.frame = f ∧ o.left = rest := by
  obtain ⟨h, l, body, hfeq, htotal, hvalid⟩ := hf
  have hbody : f.length - 4 = body.length := by rw [hfeq]; rfl
  have hstream : g.map RxEvent.byte ++ f.map .byte ++ rest =
      g.map .byte ++ .byte Config.sync0 :: .byte Config.sync1 :: ([h, l].map .byte ++ (body.map .byte ++ rest)) := by
    rw [hfeq]; simp
  have hhunt := huntStream_locks hg (Nat.lt_succ_of_le hlen) ([h, l].map .byte ++ (body.map .byte ++ rest))
  have htarget : streamTarget .strict (be16 h l).toNat f.length = some f.length := if_pos htotal
  have hhead : takeBytes 2 ([h, l].map .byte ++ (body.map .byte ++ rest)) = .got [h, l] (body.map .byte ++ rest) :=
    takeBytes_all [h, l] _
  rw [syncStream_eq, hstream, hhunt, huntOutcome, hhead, lengthOutcome]
  simp only [List.getD_cons_zero, List.getD_cons_succ, htarget, hbody, takeBytes_all, bodyOutcome, List.cons_append,
    List.nil_append, ← hfeq]
  exact ⟨_, rfl, verdict_eq_ok.mpr hvalid, rfl, rfl, rfl⟩

/-- Longer garbage ends the SYNC with TIMEOUT once the budget is used up (R119). -/
theorem syncStream_timesOut {g f : List Byte} (hg : noSyncPair g) (hf : validFrame f) (hlen : 2 * f.length < g.length)
    (rest : List RxEvent) :
    syncStream .strict f.length (g.map .byte ++ f.map .byte ++ rest) =
      some ⟨Result.blank .timeout .sync (BitVec.ofNat 8 (exhaustedReads (2 * f.length + 1) g)), [],
        (g.map RxEvent.byte ++ f.map RxEvent.byte ++ rest).drop (exhaustedReads (2 * f.length + 1) g)⟩ := by
  obtain ⟨h, l, body, hfeq, -, -⟩ := hf
  have hg' : noSyncPair (g ++ [Config.sync0]) := by
    intro a b hab
    rcases List.eq_nil_or_concat b with rfl | ⟨b', c, rfl⟩
    · have hlast := congrArg List.getLast? hab
      simp [Config.sync0, Config.sync1] at hlast
    · refine hg a b' (List.append_inj_left' (s₁ := g) (t₁ := [Config.sync0]) (t₂ := [c]) ?_ rfl)
      simpa using hab
  have hstream : g.map RxEvent.byte ++ f.map .byte ++ rest =
      g.map .byte ++ .byte Config.sync0 :: ((Config.sync1 :: h :: l :: body).map .byte ++ rest) := by
    rw [hfeq]; simp
  rw [syncStream_eq, hstream, huntStream_exhausted _ hg' hlen, huntOutcome]

/-- The byte that decides whether one more is read is the last of the budget. -/
theorem exhaustedReads_eq {n : Nat} {g : List Byte} (h : n < g.length) :
    exhaustedReads (n + 1) g = if g[n]? = some Config.sync0 then n + 2 else n + 1 := by
  have hlast : (g.take (n + 1)).getLast? = g[n]? := by
    rw [List.getLast?_eq_getElem?, List.length_take_of_le h, Nat.succ_sub_one,
      List.getElem?_take_of_lt (Nat.lt_succ_self n)]
  rw [exhaustedReads, pendingAfter, hlast]
  by_cases hsync : g[n]? = some Config.sync0
  · rw [decide_eq_true hsync, if_pos rfl, if_pos hsync]
  · rw [decide_eq_false hsync, if_neg Bool.false_ne_true, if_neg hsync]

/-- A numbered list reads back as the list. -/
theorem read_zip_range (bs : List Byte) (i : Nat) : Memory.read ((List.range bs.length).zip bs) i = bs[i]? := by
  have hfill : filledTo ((List.range bs.length).zip bs) bs.length := List.map_fst_zip (by simp)
  have hbytes : bytesOf ((List.range bs.length).zip bs) = bs := List.map_snd_zip (by simp)
  rw [read_filled hfill, hbytes]

/-- Settles O49: the function form on garbage and a frame, by the length of the garbage, and the run that shows its
outcome. -/
theorem garbageRecovery : Obligations.GarbageRecovery := by
  intro s e g f rest hmin hmax hh hs hg hf hlen hrx
  have he : legalLen e = true := decide_eq_true ⟨hmin, hmax⟩
  have hexec : exec (.syncS e) s = .next (startSync .strict e s) := (takeRequest_idle hs).trans (by rw [if_pos he])
  obtain ⟨hruns, -⟩ := runsAs_startSync .strict he hh
  rw [hrx, ← hlen] at hruns
  rw [← hlen]
  rcases Nat.lt_or_ge (2 * f.length) g.length with hlong | hshort
  · obtain ⟨k, t, hrun, hidle, hres, hleft, -, hflen, -, -⟩ := hruns _ (syncStream_timesOut hg hf hlong rest)
    have hreads := exhaustedReads_eq hlong
    have hnrx : t.res.nrx.toNat = exhaustedReads (2 * f.length + 1) g := by
      rw [hres, Result.blank, BitVec.toNat_ofNat, Nat.mod_eq_of_lt]
      rw [hreads]
      split <;> omega
    refine ⟨_, k, t, hexec, hrun, hidle, by rw [hres]; rfl, fun h => by omega, fun _ => ⟨by rw [hres]; rfl, ?_,
      hnrx.trans hreads, ?_⟩⟩
    · exact BitVec.eq_of_toNat_eq hflen
    · rw [hleft, hnrx, hrx]
  · obtain ⟨o, ho, hok, hrop, hframe, holeft⟩ := syncStream_recovers hg hf hshort rest
    obtain ⟨k, t, hrun, hidle, hres, hleft, hfbuf, hflen, -, -⟩ := hruns o ho
    rw [hframe] at hfbuf hflen
    refine ⟨_, k, t, hexec, hrun, hidle, hres ▸ hrop, fun _ => ⟨hres ▸ hok, hflen, fun i _ => ?_, hleft.trans holeft⟩,
      fun h => by omega⟩
    rw [hfbuf, read_zip_range]

end Sys2Proof.Machine
end

section
/-! PROOFS. The request words (30_encoding.md sections 1 and 3): the decoder and the encoder undo each other, and the
masks of the base rows. -/

namespace Sys2Proof

/-! ### Decoding an encoded instruction -/

/-- Settles O2: a base operation's word is made of the fields that the decoder reads back; a named row's word is a
closed value. -/
theorem decodeEncodeIsExpand : Obligations.DecodeEncodeIsExpand := by
  intro i
  have hmid0 : (0 : BitVec 4).extractLsb' 1 3 = 0 ∧ (0 : BitVec 4).extractLsb' 0 1 = 0 := by decide
  have hmid1 : (1 : BitVec 4).extractLsb' 1 3 = 0 ∧ (1 : BitVec 4).extractLsb' 0 1 ≠ 0 := by decide
  cases i with
  | syncS e => simp only [decode, encode, Instr.expand, opBits_requestWord, midBits_requestWord, arg16_requestWord,
      arg8_requestWord, hmid0, ne_eq, not_true, if_true, if_false]
  | syncT e => simp only [decode, encode, Instr.expand, opBits_requestWord, midBits_requestWord, arg16_requestWord,
      arg8_requestWord, hmid1, ne_eq, not_true, if_true, if_false]
  | enc code payload => simp [decode, encode, Instr.expand]
  | verify n ops => simp [decode, encode, Instr.expand]
  | readData | readStatus | setPassive | setActive | reqRead | sleep | wake => rfl

/-- Settles O1: each word is the encoding of its instruction. -/
theorem decodeReadsSpecWords : Obligations.DecodeReadsSpecWords := by
  have hword : requestWord 0 7 0 3 = 0x00000703 := by decide
  exact ⟨rfl, rfl, rfl, rfl, rfl, fun ops => hword ▸ decodeEncodeIsExpand (.verify 7 ops)⟩

/-! ### Encoding a decoded instruction -/

/-- The four bits of `w[7:4]` are the reserved bits and POL (R73). -/
theorem midBits_eq_of_parts : ∀ (m : BitVec 4) (pol : BitVec 1), m.extractLsb' 1 3 = 0 → m.extractLsb' 0 1 = pol →
    m = pol.setWidth 4 := by decide

theorem midBits_eq_of_pol {r : Request} {pol : BitVec 1} (hmid : r.midBits.extractLsb' 1 3 = 0)
    (hpol : r.word.extractLsb' 4 1 = pol) : r.midBits = pol.setWidth 4 :=
  midBits_eq_of_parts _ _ hmid ((midBits_pol r).trans hpol)

/-- Settles O3: on each row the fields that the encoder fills in are those that the decoder found. -/
theorem encodeReproducesDecodedWord : Obligations.EncodeReproducesDecodedWord := by
  intro r i h
  have hfields := requestWord_fields r
  have hd := decode_decoded r
  rw [h] at hd
  cases hd with
  | syncS hop hmid harg hpol =>
    rw [hop, harg, midBits_eq_of_pol hmid hpol] at hfields
    exact ⟨hfields, by simp⟩
  | syncT hop hmid harg hpol =>
    rw [hop, harg, midBits_eq_of_pol hmid hpol] at hfields
    exact ⟨hfields, by simp⟩
  | enc hop hmid =>
    rw [hop, hmid] at hfields
    exact ⟨hfields, by simp⟩
  | verify hop hmid harg =>
    rw [hop, hmid, harg] at hfields
    exact ⟨hfields, fun _ _ _ => rfl⟩

/-! ### The mask and the match of a row (R92) -/

theorem decode_syncS_iff (r : Request) :
    (∃ e, decode r = .ok (.syncS e)) ↔ r.arg16 = 0 ∧ r.midBits = 0 ∧ r.opBits = 1 := by
  constructor
  · rintro ⟨e, h⟩
    have hd := decode_decoded r
    rw [h] at hd
    cases hd with
    | syncS hop hmid harg hpol => exact ⟨harg, midBits_eq_of_pol hmid hpol, hop⟩
  · rintro ⟨harg, hmid, hop⟩
    exact ⟨r.arg8, by simp [decode, harg, hmid, hop]⟩

theorem decode_syncT_iff (r : Request) :
    (∃ e, decode r = .ok (.syncT e)) ↔ r.arg16 = 0 ∧ r.midBits = 1 ∧ r.opBits = 1 := by
  constructor
  · rintro ⟨e, h⟩
    have hd := decode_decoded r
    rw [h] at hd
    cases hd with
    | syncT hop hmid harg hpol => exact ⟨harg, midBits_eq_of_pol hmid hpol, hop⟩
  · rintro ⟨harg, hmid, hop⟩
    have hreserved : (1 : BitVec 4).extractLsb' 1 3 = 0 := by decide
    have hpol : (1 : BitVec 4).extractLsb' 0 1 ≠ 0 := by decide
    exact ⟨r.arg8, by simp only [decode, harg, hmid, hop, hreserved, hpol, ne_eq, not_true, if_true, if_false]⟩

theorem decode_enc_iff (r : Request) :
    (∃ c p, decode r = .ok (.enc c p)) ↔ r.midBits = 0 ∧ r.opBits = 2 := by
  constructor
  · rintro ⟨c, p, h⟩
    have hd := decode_decoded r
    rw [h] at hd
    cases hd with
    | enc hop hmid => exact ⟨hmid, hop⟩
  · rintro ⟨hmid, hop⟩
    exact ⟨r.arg8, r.arg16, by simp [decode, hmid, hop]⟩

theorem decode_verify_iff (r : Request) :
    (∃ n ops, decode r = .ok (.verify n ops)) ↔ r.arg16 = 0 ∧ r.midBits = 0 ∧ r.opBits = 3 := by
  constructor
  · rintro ⟨n, ops, h⟩
    have hd := decode_decoded r
    rw [h] at hd
    cases hd with
    | verify hop hmid harg => exact ⟨harg, hmid, hop⟩
  · rintro ⟨harg, hmid, hop⟩
    exact ⟨r.arg8, r.ops, by simp [decode, harg, hmid, hop]⟩

/-- Settles O5: the mask keeps the fields that the decoder fixes for the row, and the match is their values. -/
theorem maskAndMatchSelectTheRow : Obligations.MaskAndMatchSelectTheRow := fun r =>
  ⟨(decode_syncS_iff r).trans (word_and_mask_eq_iff r 0 0 1).symm,
    (decode_syncT_iff r).trans (word_and_mask_eq_iff r 0 1 1).symm,
    (decode_enc_iff r).trans (word_and_low_eq_iff r 0 2).symm,
    (decode_verify_iff r).trans (word_and_mask_eq_iff r 0 0 3).symm⟩

end Sys2Proof
end

section
/-! PROOFS. What `exec` does with each instruction (30_encoding.md section 3, 40_receive.md section 1, 42_command.md
section 2, 60_exceptions.md sections 1 and 2), and the step that calls it (10_state.md section 1). -/

namespace Sys2Proof.Machine

/-! ### Every instruction, in every state -/

/-- Settles O11: every instruction goes through `takeRequest`. -/
theorem noAcceptanceWhileBusy : Obligations.NoAcceptanceWhileBusy := by
  intro i s hs
  cases i <;> exact takeRequest_busy hs

/-- Settles O12: a busy block keeps its state, and an idle one accepts or refuses. -/
theorem execAlwaysAnswersNext : Obligations.ExecAlwaysAnswersNext := by
  intro i s
  by_cases hs : s.rs = .idle
  · exact ⟨_, exec_idle i hs⟩
  · exact ⟨s, noAcceptanceWhileBusy i s hs⟩

/-- Settles O13: the fixed operands of the named rows are within the limits of R76, which their base checks. -/
theorem callSitesMeanTheirBase : Obligations.CallSitesMeanTheirBase := by
  intro i s
  cases i with
  | syncS | syncT | enc | verify => rfl
  | readData | readStatus => rfl
  | setPassive | setActive | reqRead | sleep | wake => rfl

/-! ### Acceptance of a SYNC (R100) -/

theorem startSync_acceptedSync (pol : Policy) {e : Byte} (he : e.toNat ≤ 32) (s : State) :
    acceptedSync pol e.toNat s (startSync pol e s) :=
  ⟨rfl, toNat_setWidth_six he, rfl, read_nil, rfl, rfl, rfl, rfl, rfl, rfl, rfl, rfl, rfl, rfl, rfl, rfl, rfl, rfl,
    fun _ => rfl, rfl, rfl, rfl, rfl, rfl⟩

/-- Settles O14: the four receive instructions are accepted within the limits, with the state of R100. -/
theorem syncIsAccepted : Obligations.SyncIsAccepted := by
  intro s hs
  refine ⟨fun e hmin hmax => ?_, ⟨_, exec_idle .readData hs, startSync_acceptedSync .strict (by decide) s⟩,
    ⟨_, exec_idle .readStatus hs, startSync_acceptedSync .strict (by decide) s⟩⟩
  have hwf : (Instr.syncS e).wellFormed = true ∧ (Instr.syncT e).wellFormed = true :=
    ⟨decide_eq_true ⟨hmin, hmax⟩, decide_eq_true ⟨hmin, hmax⟩⟩
  exact ⟨⟨_, (exec_idle (.syncS e) hs).trans (by rw [if_pos hwf.1]; rfl), startSync_acceptedSync .strict hmax s⟩,
    ⟨_, (exec_idle (.syncT e) hs).trans (by rw [if_pos hwf.2]; rfl), startSync_acceptedSync .tolerant hmax s⟩⟩

/-! ### The named commands (R164 to R168) -/

/-- Settles O16: each is ENC with its fixed operands, whose frame and checksum are closed values. -/
theorem namedCommandsBuildTheirFrames : Obligations.NamedCommandsBuildTheirFrames := by
  refine ⟨⟨rfl, rfl, rfl, rfl, rfl⟩, fun s hs => ?_⟩
  exact ⟨⟨_, exec_idle .setPassive hs, encodeCommand_commandBuilt 0xE1 0 s⟩,
    ⟨_, exec_idle .setActive hs, encodeCommand_commandBuilt 0xE1 1 s⟩,
    ⟨_, exec_idle .reqRead hs, encodeCommand_commandBuilt 0xE2 0 s⟩,
    ⟨_, exec_idle .sleep hs, encodeCommand_commandBuilt 0xE4 0 s⟩,
    ⟨_, exec_idle .wake hs, encodeCommand_commandBuilt 0xE4 1 s⟩⟩

/-! ### Refusal (R183) -/

theorem exec_of_not_wellFormed {i : Instr} {s : State} (hs : s.rs = .idle) (hi : i.wellFormed = false) :
    exec i s = .next (afterRefusal s) := by
  rw [exec_idle i hs, hi]
  rfl

/-- Settles O18: these are the instructions that are not well formed. -/
theorem illegalOperandsAreRefused : Obligations.IllegalOperandsAreRefused := fun _ hs =>
  ⟨fun e he => ⟨exec_of_not_wellFormed hs ((wellFormed_syncS_eq_false e).mpr he),
      exec_of_not_wellFormed hs ((wellFormed_syncT_eq_false e).mpr he)⟩,
    fun n ops h => exec_of_not_wellFormed hs ((wellFormed_verify_eq_false n ops).mpr h)⟩

/-! ### The step and the host's list (R22, R61) -/

theorem step_pass {s : State} {rest : List HostAct} (h : s.host = .pass :: rest) :
    step s = blockStep { s with host := rest } := by
  simp only [step, totalStep, h]

theorem step_present_free {s : State} {r : Request} {rest : List HostAct} (h : s.host = .present r :: rest)
    (hreq : s.req = none) : step s = .next { s with req := some r, host := rest } := by
  simp only [step, totalStep, h, hreq]

theorem step_present_waiting {s : State} {r : Request} {rest : List HostAct} (h : s.host = .present r :: rest)
    (hreq : s.req ≠ none) : step s = blockStep s := by
  obtain ⟨q, hq⟩ := Option.ne_none_iff_exists'.mp hreq
  simp only [step, totalStep, h, hq]

/-- Settles O9: the request slot is free, or the block moves. -/
theorem presentedRequestIsHeld : Obligations.PresentedRequestIsHeld :=
  fun _ _ _ hh => ⟨step_present_free hh, step_present_waiting hh⟩

/-- An idle block takes the request held by running the instruction that the decoder reads. -/
theorem blockStep_takes {s : State} {r : Request} {i : Instr} (hs : s.rs = .idle) (hreq : s.req = some r)
    (hd : decode r = .ok i) : blockStep s = exec i { s with req := none } := by
  rw [blockStep_of_request hs hreq, takeWord, hd]

/-- A step at which the block moves with `left` for the host to do. -/
theorem step_eq_blockStep {s : State} {left : List HostAct}
    (h : s.host = .pass :: left ∨ (s.req ≠ none ∧ left = s.host ∧ ∃ r rest, s.host = .present r :: rest)) :
    step s = blockStep { s with host := left } := by
  rcases h with hpass | ⟨hreq, rfl, r, rest, hh⟩
  · exact step_pass hpass
  · exact step_present_waiting hh hreq

/-- The block's move with other host actions to come is the same move. -/
theorem step_eq_withHost {s : State} {left : List HostAct}
    (h : s.host = .pass :: left ∨ (s.req ≠ none ∧ left = s.host ∧ ∃ r rest, s.host = .present r :: rest)) :
    step s = withHost left (step { s with host := [] }) := by
  rw [step_eq_blockStep h, step_block (s := { s with host := [] }) rfl]
  exact blockStep_host { s with host := [] } left

/-- Settles O7: the block moves at these steps, and its move does not look at the host's list. -/
theorem stepRunsDecodedInstruction : Obligations.StepRunsDecodedInstruction := by
  have runs (s : State) (r : Request) (i : Instr) (rest : List HostAct) (hs : s.rs = .idle)
      (hh : s.host = .pass :: rest ∨ (s.host = [] ∧ rest = [])) (hreq : s.req = some r) (hd : decode r = .ok i) :
      step s = exec i { s with req := none, host := rest } := by
    rcases hh with hpass | ⟨hnil, rfl⟩
    · rw [step_pass hpass]
      exact blockStep_takes (s := { s with host := rest }) hs hreq hd
    · rw [step_block hnil, blockStep_takes hs hreq hd, ← hnil]
  refine ⟨runs, fun s nbits w i hd => ?_, fun s left h => ?_⟩
  · have hdecode : decode (tableRequest nbits w) = .ok i := by
      unfold decodeTableWord at hd
      cases hdec : decode (tableRequest nbits w) with
      | error => rw [hdec] at hd; cases hd
      | ok j => rw [hdec] at hd; cases hd; rfl
    exact runs (s.withFetchWord nbits w) (tableRequest nbits w) i [] rfl (.inr ⟨rfl, rfl⟩) rfl hdecode
  · rw [step_eq_withHost h]
    exact ⟨fun t ht => by rw [ht]; rfl, fun f hf => by rw [hf]; rfl⟩

/-! ### The host's reads and reset -/

theorem writtenOr_some (g : HostReg) (v : BitVec 16) : writtenOr g (some v) = .ok v := rfl

theorem bufferByte_written (g : HostReg) {size i : Nat} {m : Memory} {b : Byte} (hi : i < size)
    (hm : Memory.read m i = some b) : bufferByte g size m i = .ok (b.setWidth 16) := by
  rw [bufferByte, if_pos hi, hm, Option.map_some, writtenOr_some]

/-- A value of at most 16 bits, zero-extended, is its number. -/
theorem setWidth_eq_ofNat {w : Nat} (v : BitVec w) : v.setWidth 16 = BitVec.ofNat 16 v.toNat := by
  rw [BitVec.ofNat_toNat]

theorem setWidth_ofBool (b : Bool) : (BitVec.ofBool b).setWidth 16 = BitVec.ofNat 16 b.toNat := by cases b <;> rfl

/-- Settles O30: each register is read from its field, and each written buffer byte from its entry. -/
theorem hostReadsReturnTheRegister : Obligations.HostReadsReturnTheRegister := by
  intro s rest hs
  have reads {g : HostReg} {v : Nat} (hv : idleValue g s = .ok (BitVec.ofNat 16 v)) (hh : s.host = .read g :: rest) :
      step s = .next { s with host := rest, hostData := some (BitVec.ofNat 16 v) } :=
    step_read_ok hh ((hostValue_of_idle g hs).trans hv)
  refine ⟨reads ?_, reads ?_, reads ?_, reads ?_, reads ?_, fun v hv => reads ?_, fun v hv => reads ?_,
    fun v hv => reads ?_, fun v hv => reads ?_, fun i b hi hb => reads ?_, fun i b hi hb => reads ?_⟩
  · rw [idleValue, hs]
    rfl
  · rw [idleValue, setWidth_eq_ofNat]
  · rw [idleValue, setWidth_eq_ofNat]
  · rw [idleValue, setWidth_eq_ofNat]
  · rw [idleValue, setWidth_eq_ofNat]
  · rw [idleValue, hv, writtenOr_some, BitVec.ofNat_toNat, BitVec.setWidth_eq]
  · rw [idleValue, hv, Option.map_some, writtenOr_some, setWidth_ofBool]
  · rw [idleValue, hv, writtenOr_some, BitVec.ofNat_toNat, BitVec.setWidth_eq]
  · rw [idleValue, hv, writtenOr_some, BitVec.ofNat_toNat, BitVec.setWidth_eq]
  · rw [idleValue, bufferByte_written _ hi hb, setWidth_eq_ofNat]
  · rw [idleValue, bufferByte_written _ hi hb, setWidth_eq_ofNat]

theorem step_reset {s : State} {rest : List HostAct} (h : s.host = .reset :: rest) :
    step s = .next (resetBlock { s with host := rest }) := by
  simp only [step, totalStep, h]

/-- Settles O33: reset puts the block to `State.reset` and leaves the other two agents. -/
theorem resetAbandonsTheOperation : Obligations.ResetAbandonsTheOperation := fun _ _ hh =>
  ⟨_, step_reset hh, rfl, rfl, rfl, rfl, rfl, rfl, rfl, rfl, read_nil, read_nil, rfl, rfl⟩

/-- Settles O34: the values of R39. -/
theorem resetStateIsNone : Obligations.ResetStateIsNone :=
  ⟨rfl, rfl, rfl, rfl, rfl, rfl, rfl, rfl, rfl, read_nil, read_nil⟩

end Sys2Proof.Machine
end

section
/-! PROOFS. The steps of the running SYNC that store bytes (40_receive.md sections 3 to 5), and the registers and
buffers that steps write (10_state.md section 3). -/

namespace Sys2Proof.Machine

/-! ### The steps that store a byte -/

/-- A stored byte reads back, and every other entry of `fbuf` stays (R105, R108). -/
theorem read_storeByte (i : Nat) (b : Byte) (s : State) :
    Memory.read (storeByte i b s).fbuf i = some b ∧
      ∀ j, j ≠ i → Memory.read (storeByte i b s).fbuf j = Memory.read s.fbuf j :=
  ⟨read_write_same _ _ _, fun _ hj => read_write_other _ _ hj⟩

theorem lockSync_acc_eq (s : State) : (lockSync s).acc = s.acc + 0x8F := by
  rw [lockSync_acc, add_assoc]
  rfl

/-- Settles O21: the three cases of the byte, by what it is and what is left of the budget. -/
theorem huntOneStep : Obligations.HuntOneStep := by
  intro s b rest hr hh hx
  have hs : s.rs ≠ .idle := by simp [hr]
  refine ⟨?_, fun hb hscan => step_of_syncMove hh hs (.exhausted hr b rest hx hb hscan),
    fun hb hscan => step_of_syncMove hh hs (.hunt1 hr b rest hx hb hscan)⟩
  rintro rfl
  obtain ⟨hzero, hother0⟩ := read_storeByte 0 Config.sync0 (consume rest s)
  obtain ⟨hone, hother1⟩ := read_storeByte 1 Config.sync1 (storeByte 0 Config.sync0 (consume rest s))
  refine ⟨_, step_of_syncMove hh hs (.lock hr rest hx), (hother1 0 (by decide)).trans hzero, hone, fun i hi => ?_, ?_⟩
  · exact (hother1 i (by omega)).trans (hother0 i (by omega))
  · rw [← show (consume rest s).acc = s.acc from rfl, ← lockSync_acc_eq]
    rfl

/-- Settles O22: the byte goes to index 2. -/
theorem lengthHighStep : Obligations.LengthHighStep := by
  intro s b rest hr hh hx
  obtain ⟨hsame, hother⟩ := read_storeByte 2 b (consume rest s)
  exact ⟨_, step_of_syncMove hh (by simp [hr]) (.lenHi hr b rest hx), hsame, hother, rfl⟩

/-- Settles O23: the byte goes to index 3, and the policy decides on the length field of the two bytes. -/
theorem lengthLowStep : Obligations.LengthLowStep := by
  intro s h l rest hr hh hx hread
  have hs : s.rs ≠ .idle := by simp [hr]
  have htotal : (be16 h l).toNat + 4 = h.toNat * 256 + l.toNat + 4 := by rw [toNat_be16]
  have hmatch : lengthMatches (be16 h l) s.E = decide (h.toNat * 256 + l.toNat + 4 = s.E.toNat) := by
    rw [lengthMatches, htotal]
  obtain ⟨hsame, hother⟩ := read_storeByte 3 l (consume rest s)
  refine ⟨Memory.write s.fbuf 3 l, hsame, hother, fun hpol hne => ?_, fun hpol heq => ?_, fun hpol => ?_⟩
  · have ht : targetLen s.pol (be16 h l) s.E = none := by rw [hpol, targetLen, htotal, if_neg hne]
    have hstep := step_of_syncMove hh hs (.mismatch hr h l rest hx hread ht)
    rw [hmatch] at hstep
    exact hstep
  · have ht : targetLen s.pol (be16 h l) s.E = some (s.E.setWidth 17) := by rw [hpol, targetLen, htotal, if_pos heq]
    have hstep := step_of_syncMove hh hs (.length hr h l rest _ hx hread ht)
    rw [hmatch] at hstep
    exact hstep
  · have ht : targetLen s.pol (be16 h l) s.E =
        some (BitVec.ofNat 17 (min (h.toNat * 256 + l.toNat + 4) s.E.toNat)) := by
      rw [hpol, targetLen, htotal]
    have hstep := step_of_syncMove hh hs (.length hr h l rest _ hx hread ht)
    rw [hmatch] at hstep
    exact hstep

/-- Settles O24: the byte goes to index `idx`. -/
theorem bodyStep : Obligations.BodyStep := by
  intro s b rest hr hh hx hT hidx
  obtain ⟨hsame, hother⟩ := read_storeByte s.idx.toNat b (consume rest s)
  refine ⟨_, step_of_syncMove hh (by simp [hr]) (.body hr hT hidx b rest hx), hsame, hother, ?_⟩
  have hnext : BitVec.ofNat 6 (s.idx.toNat + 1) = s.idx + 1 := by
    apply BitVec.eq_of_toNat_eq
    simp
  rw [← hnext]
  rfl

/-! ### What a step reads and writes -/

/-- Taking a request reads no event. -/
theorem Taken.rx {s t : State} (h : Taken s t) : t.rx = s.rx := by cases h <;> rfl

/-- The block's move reads at most the oldest event, and only while an operation runs (R25). -/
theorem blockStep_rx {s t : State} (h : blockStep s = .next t) :
    t.rx = s.rx ∨ (s.rs ≠ .idle ∧ ∃ ev, s.rx = ev :: t.rx) := by
  rcases blockStep_cases h with ⟨hs, hmove⟩ | ⟨-, -, rfl⟩ | ⟨hs, r, -, htake⟩
  · rcases hmove.events with ⟨hrx, -⟩ | ⟨-, ev, hrx, -⟩
    · exact .inl hrx
    · exact .inr ⟨hs, ev, hrx⟩
  · exact .inl rfl
  · obtain ⟨u, hu, htaken⟩ := takeWord_taken r (s := { s with req := none }) hs
    cases hu.symm.trans htake
    exact .inl htaken.rx

/-- Settles O26: only a move of the running SYNC reads an event, and it reads one. -/
theorem noReadAhead : Obligations.NoReadAhead := by
  intro s t h
  cases step_move h with
  | present | read | reset => exact .inl rfl
  | block rest t _ hb => exact (blockStep_rx hb).imp_right fun ⟨hs, hx⟩ => ⟨busy_eq_true.mpr hs, hx⟩

/-- Settles O27: from the three states after the hunt, the moves go on to the next of them or to IDLE. -/
theorem oneSyncPerOperation : Obligations.OneSyncPerOperation := by
  intro s t hr h
  have hs : s.rs ≠ .idle := by rcases hr with hr | hr | hr <;> simp [hr]
  have hnot : s.rs ≠ .hunt0 ∧ s.rs ≠ .hunt1 := by rcases hr with hr | hr | hr <;> simp [hr]
  cases step_move h with
  | present | read => exact hnot
  | reset => exact ⟨nofun, nofun⟩
  | block rest t _ hb =>
    rw [blockStep_busy (s := { s with host := rest }) hs] at hb
    cases syncStep_move hb with
    | notBusy | unanswered | body => exact hnot
    | budget | timeout | error | exhausted | mismatch | verified => exact ⟨nofun, nofun⟩
    | hunt0 hr' => exact absurd hr' hnot.1
    | lock hr' | hunt1 hr' => exact absurd hr' hnot.2
    | lenHi | length => exact ⟨nofun, nofun⟩

/-- A move that does not complete the SYNC leaves the record (R56). -/
theorem SyncMove.res {s t : State} (h : SyncMove s t) (ht : t.rs ≠ .idle) : t.res = s.res := by
  cases h with
  | notBusy | unanswered | hunt0 | lock | hunt1 | lenHi | length | body => rfl
  | budget | timeout | error | exhausted | mismatch | verified => exact absurd rfl ht

/-- Settles O28: the host's actions leave the latch, reset apart, and so do the moves of the running SYNC. -/
theorem latchAndResultStableWhileRunning : Obligations.LatchAndResultStableWhileRunning := by
  intro s t hbusy hbusy' h
  have hs := busy_eq_true.mp hbusy
  have ht := busy_eq_true.mp hbusy'
  cases step_move h with
  | present | read => exact ⟨rfl, rfl, rfl, rfl, rfl, rfl, rfl, rfl⟩
  | reset => exact absurd rfl ht
  | block rest t _ hb =>
    rw [blockStep_busy (s := { s with host := rest }) hs] at hb
    have hmove := syncStep_move hb
    obtain ⟨hop, hE, hpol, hcode, hpayload, hn, hvop, -, -, -⟩ := hmove.frame
    exact ⟨hop, hE, hpol, hcode, hpayload, hn, hvop, hmove.res ht⟩

/-- A move writes `fbuf` or `flen` only where it reads an event or completes (R32). -/
theorem SyncMove.frameBuffer {s t : State} (h : SyncMove s t) (hs : s.rs ≠ .idle) :
    (t.fbuf = s.fbuf ∧ t.flen = s.flen) ∨ t.rx ≠ s.rx ∨ t.rs = .idle := by
  rcases h.progress hs with ht | ⟨rfl, -, -⟩ | ⟨-, ev, hx, -⟩
  · exact .inr (.inr ht)
  · exact .inl ⟨rfl, rfl⟩
  · refine .inr (.inl fun heq => ?_)
    have hlen := congrArg List.length hx
    rw [heq, List.length_cons] at hlen
    omega

/-- The buffers that an idle block writes when it takes a request, by the instruction (R32, R35). -/
theorem takeWord_buffers {r : Request} {s t : State} (hs : s.rs = .idle) (h : takeWord r s = .next t) :
    ((t.fbuf = s.fbuf ∧ t.flen = s.flen) ∨ ∃ e, decode r = .ok (.syncS e) ∨ decode r = .ok (.syncT e)) ∧
      (t.cbuf = s.cbuf ∨ ∃ c p, decode r = .ok (.enc c p)) ∧ t.req = s.req := by
  unfold takeWord at h
  have hd := decode_decoded r
  cases hdec : decode r with
  | error =>
    rw [hdec] at h
    cases h
    exact ⟨.inl ⟨rfl, rfl⟩, .inl rfl, rfl⟩
  | ok i =>
    rw [hdec] at hd h
    cases (exec_idle i hs).symm.trans h
    by_cases hwf : i.wellFormed = true
    · rw [if_pos hwf]
      cases hd with
      | syncS => exact ⟨.inr ⟨_, .inl rfl⟩, .inl rfl, rfl⟩
      | syncT => exact ⟨.inr ⟨_, .inr rfl⟩, .inl rfl, rfl⟩
      | enc => exact ⟨.inl ⟨rfl, rfl⟩, .inr ⟨_, _, rfl⟩, rfl⟩
      | verify => exact ⟨.inl ⟨rfl, rfl⟩, .inl rfl, rfl⟩
    · rw [if_neg hwf]
      exact ⟨.inl ⟨rfl, rfl⟩, .inl rfl, rfl⟩

/-- Settles O29: the moves of the running SYNC write `fbuf` where they read or complete, and a taken request writes the
buffer of its instruction. -/
theorem buffersHaveOneWriter : Obligations.BuffersHaveOneWriter := by
  intro s t h hreset
  cases step_move h with
  | present | read => exact ⟨.inl ⟨rfl, rfl⟩, .inl rfl⟩
  | reset rest hh => exact absurd hh (hreset rest)
  | block rest t _ hb =>
    rcases blockStep_cases hb with ⟨hs, hmove⟩ | ⟨-, -, rfl⟩ | ⟨hs, r, hreq, htake⟩
    · refine ⟨(hmove.frameBuffer hs).imp_right fun hwrite => .inl ⟨busy_eq_true.mpr hs, ?_⟩, .inl hmove.frame.cbuf⟩
      exact hwrite.imp_right busy_eq_false.mpr
    · exact ⟨.inl ⟨rfl, rfl⟩, .inl rfl⟩
    · obtain ⟨hfbuf, hcbuf, hused⟩ := takeWord_buffers (s := { s with host := rest, req := none }) hs htake
      have hidle : s.busy = false := busy_eq_false.mpr hs
      exact ⟨hfbuf.imp_right fun ⟨e, hd⟩ => .inr ⟨hidle, r, e, hreq, hused, hd⟩,
        hcbuf.imp_right fun ⟨c, p, hd⟩ => ⟨hidle, r, c, p, hreq, hused, hd⟩⟩

end Sys2Proof.Machine
end

section
/-! PROOFS. The results of a SYNC and the checksum (40_receive.md sections 4 and 7, 41_checksum.md): what a completion
may report, the accumulator, and single corrupted bytes. -/

namespace Sys2Proof.Machine

/-! ### What a completion reports -/

/-- A SYNC completes with no checksums, by an event, the budget or a Strict mismatch, or it verifies (R101 to R109). -/
theorem SyncMove.completion {s t : State} (h : SyncMove s t) (hs : s.rs ≠ .idle) (ht : t.rs = .idle) :
    (t.res.csc = none ∧ (t.res.st = .timeout ∨ t.res.st = .transportError ∨ s.pol = .strict)) ∨
      (s.rs = .body ∧ s.idx.toNat = s.T.toNat ∧ ∃ frame, Memory.readFrom s.fbuf 0 s.T.toNat = some frame ∧
        t.res.csc = some (computed frame) ∧ t.res.st = verdict (computed frame) (stored frame)) := by
  cases h with
  | budget | timeout | exhausted => exact .inl ⟨rfl, .inl rfl⟩
  | error => exact .inl ⟨rfl, .inr (.inl rfl)⟩
  | mismatch _ _ _ _ _ _ htarget => exact .inl ⟨rfl, .inr (.inr (lengthMatches_of_targetLen_none htarget).1)⟩
  | verified hr hT frame hf => exact .inr ⟨hr, hT, frame, hf, rfl, rfl⟩
  | notBusy | unanswered | body => exact absurd ht hs
  | hunt0 _ _ b | hunt1 _ b => exact absurd ht (chargeByte_rs_ne_idle b _)
  | lock | lenHi | length => cases ht

theorem verdict_ne_lengthMismatch (csc csr : Half) : verdict csc csr ≠ .lengthMismatch := by
  unfold verdict
  split <;> decide

/-- Settles O46: of the completions, only a Strict mismatch reports it. -/
theorem tolerantNeverMismatches : Obligations.TolerantNeverMismatches := by
  intro s t hbusy hh hpol hstep hidle
  have hs := busy_eq_true.mp hbusy
  rcases (syncMove_of_step hh hs hstep).completion hs (busy_eq_false.mp hidle) with
    ⟨-, hst | hst | hstrict⟩ | ⟨-, -, frame, -, -, hst⟩
  · simp [hst]
  · simp [hst]
  · simp [hpol] at hstrict
  · exact hst ▸ verdict_ne_lengthMismatch _ _

/-- Settles O45: what an OK result guarantees (R118), for Strict and E = 32. -/
theorem strictOkIsEligible : Obligations.StrictOkIsEligible := by
  intro s t hinv hbusy hh hpol hE hstep hidle hok
  obtain ⟨-, -, h, l, frame, -, -, -, -, -, hstrict⟩ := okMeansAVerifiedFrame s t hinv hbusy hh hstep hidle hok
  obtain ⟨hflen, -, hmatch⟩ := hstrict hpol
  exact ⟨hok, hflen.trans hE, hmatch⟩

/-! ### Frames with a length field of 0 or 1 (R122) -/

/-- A frame of four bytes with length field 0, or of five with length field 1, covers the two sync bytes and a zero byte
at most, and stores another value. -/
theorem computed_ne_stored_of_tiny {frame : List Byte} {h l : Byte}
    (hhead : frame.take 4 = [Config.sync0, Config.sync1, h, l]) (hlen : frame.length = (be16 h l).toNat + 4)
    (htiny : (be16 h l).toNat < 2) : computed frame ≠ stored frame := by
  have hl := l.isLt
  have hframe : frame = [Config.sync0, Config.sync1, h, l] ++ frame.drop 4 := by rw [← hhead, List.take_append_drop]
  have hdrop : (frame.drop 4).length = (be16 h l).toNat := by rw [List.length_drop, hlen, Nat.add_sub_cancel]
  rw [toNat_be16] at htiny hdrop
  obtain rfl : h = 0 := BitVec.eq_of_toNat_eq (by simp; omega)
  have hsum : sum16 [Config.sync0, Config.sync1] = 0x8F ∧ sum16 [Config.sync0, Config.sync1, 0] = 0x8F := by decide
  have hfour : [Config.sync0, Config.sync1, 0, l] = [Config.sync0, Config.sync1] ++ [0, l] := rfl
  have hfive (x : Byte) : [Config.sync0, Config.sync1, 0, l] ++ [x] = [Config.sync0, Config.sync1, 0] ++ [l, x] := rfl
  intro heq
  cases hrest : frame.drop 4 with
  | nil =>
    rw [hframe, hrest, List.append_nil, hfour, computed_eq_stored_iff, hsum.1] at heq
    have hval := congrArg BitVec.toNat heq
    rw [toNat_be16] at hval
    simp at hval
    omega
  | cons x more =>
    rw [hrest, List.length_cons] at hdrop
    obtain rfl : more = [] := List.length_eq_zero_iff.mp (by simp at hdrop; omega)
    rw [hframe, hrest, hfive, computed_eq_stored_iff, hsum.2] at heq
    have hval := congrArg BitVec.toNat heq
    rw [toNat_be16] at hval
    simp at hval hdrop
    omega

/-- Settles O47: Strict does not get there, and Tolerant verifies the four or five bytes. -/
theorem tinyLengthsNeverVerify : Obligations.TinyLengthsNeverVerify := by
  intro s t hinv hr hh htiny hstep hidle hok
  have hs : s.rs ≠ .idle := by simp [hr]
  obtain ⟨-, hT, frame, hf, hsum, -⟩ := (syncMove_of_step hh hs hstep).verified_of_ok hs (busy_eq_false.mp hidle) hok
  have hfill := hinv.filled_running hs
  rw [← hT, readFrom_whole hfill, Option.some.injEq] at hf
  obtain ⟨⟨h, l, hhead, hlenf⟩, -, -, hstrict, htolerant⟩ := hinv.content_body hr
  obtain ⟨hmin, -⟩ := hinv.E_bounds hs
  have htarget : s.T.toNat = s.lenf.toNat + 4 := by
    cases hpol : s.pol with
    | strict =>
      obtain ⟨hlen, hTE⟩ := hstrict hpol
      omega
    | tolerant =>
      have := htolerant hpol
      omega
  refine computed_ne_stored_of_tiny (hf ▸ hhead) ?_ (hlenf ▸ htiny) hsum
  rw [← hf, length_bytesOf hfill, hT, htarget, hlenf]

/-! ### The accumulator (R33, R141) -/

/-- Taking the last two summands off the sum of a list leaves the checksum of the list. -/
theorem computed_eq_sub (s : List Byte) (h : 2 ≤ s.length) :
    computed s = sum16 s - (s.getD (s.length - 2) 0).setWidth 16 - (s.getD (s.length - 1) 0).setWidth 16 := by
  obtain ⟨covered, x, y, rfl⟩ := exists_last_two s h
  have hsum : sum16 (covered ++ [x, y]) = sum16 covered + x.setWidth 16 + y.setWidth 16 := by
    rw [← sum16_append_one, ← sum16_append_one, List.append_assoc]
    rfl
  have hlast : (covered ++ [x, y]).getD (covered.length + 1) 0 = y := by simp
  have hlen : (covered ++ [x, y]).length = covered.length + 2 := by simp
  have hpred : covered.length + 2 - 1 = covered.length + 1 := rfl
  rw [computed_append_two, hsum, hlen, Nat.add_sub_cancel, hpred, hlast, sub_right_comm, add_sub_cancel_right]
  simp

/-- Settles O51: `acc` is the sum of the whole frame. -/
theorem accumulatorGivesTheChecksum : Obligations.AccumulatorGivesTheChecksum := by
  intro s frame hinv hr hT hf
  have hrun := hinv.runningInv (s := s) (by simp [hr])
  obtain ⟨hfour, -, -, -, -⟩ := hinv.counters_body hr
  rw [← hT, readFrom_whole hrun.filled, Option.some.injEq] at hf
  subst hf
  rw [hrun.sum]
  exact computed_eq_sub _ (by rw [length_bytesOf hrun.filled]; omega)

/-- In `BODY` the view of R33 is the sum of the bytes that the checksum covers. -/
theorem RunInv.coveredSum_body {s : State} (h : RunInv s) (hr : s.rs = .body) :
    s.coveredSum = sum16 ((bytesOf s.fbuf).take (s.T.toNat - 2)) := by
  have hrun := h.runningInv (s := s) (by simp [hr])
  obtain ⟨hfour, hidxT, -, -, -⟩ := h.counters_body hr
  have hlen : (bytesOf s.fbuf).length ≤ s.T.toNat - 2 + 2 := by rw [length_bytesOf hrun.filled]; omega
  rw [Machine.coveredSum_body hr, summand_filled hrun.filled, summand_filled hrun.filled, hrun.sum,
    show s.T.toNat - 1 = s.T.toNat - 2 + 1 by omega]
  exact sum16_take _ _ hlen

/-- Settles O52: the two views of `acc`, and the checksum that verification publishes over the `T` bytes. -/
theorem accumulatorLeavesOutTheStoredChecksum : Obligations.AccumulatorLeavesOutTheStoredChecksum := by
  intro s hinv hbusy
  have hs := busy_eq_true.mp hbusy
  have hrun := hinv.runningInv hs
  refine ⟨fun hr => (coveredSum_before hr).trans hrun.sum, hinv.coveredSum_body, fun t c hh hstep hidle hcsc => ?_⟩
  rcases (syncMove_of_step hh hs hstep).completion hs (busy_eq_false.mp hidle) with
    ⟨hnone, -⟩ | ⟨hr, hT, frame, hf, hcomputed, -⟩
  · rw [hnone] at hcsc
    cases hcsc
  · rw [← hT, readFrom_whole hrun.filled, Option.some.injEq] at hf
    obtain rfl : computed frame = c := Option.some.inj (hcomputed.symm.trans hcsc)
    rw [hinv.coveredSum_body hr, ← hf, computed, length_bytesOf hrun.filled, hT]

/-! ### Sums of at most 32 bytes (R144) -/

/-- Settles O58: thirty bytes of at most 255 each. -/
theorem sumsStayBelowTheModulus : Obligations.SumsStayBelowTheModulus := by
  intro covered h l hlen
  have hle := byteSum_le covered
  rw [computed_append_two, toNat_sum16, ← byteSum_eq_sum]
  omega

/-! ### A single corrupted byte (R146) -/

/-- Another byte at one index gives another sum: the change is below the modulus. -/
theorem sum16_set_ne {s : List Byte} {i : Nat} {x y : Byte} (hx : s[i]? = some x) (hne : y ≠ x) :
    sum16 (s.set i y) ≠ sum16 s := by
  intro heq
  have hset := byteSum_set hx y
  have hval := congrArg BitVec.toNat heq
  rw [toNat_sum16, toNat_sum16] at hval
  have hxlt := x.isLt
  have hylt := y.isLt
  exact hne (BitVec.eq_of_toNat_eq (by omega))

/-- A valid list with one byte replaced by another value is no longer valid: a covered byte changes the sum alone, one
of the final two the stored value alone. -/
theorem computed_ne_stored_set {ops : List Byte} (hlen : 2 ≤ ops.length) (hvalid : computed ops = stored ops) {i : Nat}
    (hi : i < ops.length) {b : Byte} (hb : ops[i]? ≠ some b) : computed (ops.set i b) ≠ stored (ops.set i b) := by
  obtain ⟨covered, h, l, rfl⟩ := exists_last_two ops hlen
  rw [computed_eq_stored_iff] at hvalid
  rcases Nat.lt_or_ge i covered.length with hcov | htail
  · rw [List.set_append_left _ _ hcov, Ne, computed_eq_stored_iff, ← hvalid]
    rw [List.getElem?_append_left hcov] at hb
    obtain ⟨x, hx⟩ : ∃ x, covered[i]? = some x := ⟨covered[i], List.getElem?_eq_getElem hcov⟩
    exact sum16_set_ne hx fun hbx => hb (hbx ▸ hx)
  · rw [List.set_append_right _ _ htail]
    rw [List.getElem?_append_right htail] at hb
    obtain hj | hj : i - covered.length = 0 ∨ i - covered.length = 1 := by simp at hi; omega
    · rw [hj] at hb ⊢
      rw [List.set_cons_zero, Ne, computed_eq_stored_iff, hvalid, eq_be16_iff, hi8_be16]
      rintro ⟨rfl, -⟩
      exact hb rfl
    · rw [hj] at hb ⊢
      rw [List.set_cons_succ, List.set_cons_zero, Ne, computed_eq_stored_iff, hvalid, eq_be16_iff, lo8_be16]
      rintro ⟨-, rfl⟩
      exact hb rfl

/-- Settles O55: VERIFY reports the comparison of the list it is given. -/
theorem singleByteCorruptionIsDetected : Obligations.SingleByteCorruptionIsDetected := by
  intro s t u n ops i b hs hmin hmax hlen hi hb ht hok hu
  have hlen' : (ops.set i b).length = n.toNat := by rw [List.length_set, hlen]
  obtain rfl : verifyBytes n ops s = t := Host.Outcome.next.inj ((exec_verify_accepted hs hlen hmin hmax).symm.trans ht)
  obtain rfl : verifyBytes n (ops.set i b) s = u :=
    Host.Outcome.next.inj ((exec_verify_accepted hs hlen' hmin hmax).symm.trans hu)
  rw [verifyBytes_of_length hlen] at hok
  rw [verifyBytes_of_length hlen']
  exact if_neg (computed_ne_stored_set (by omega) (verdict_eq_ok.mp hok) hi hb)

end Sys2Proof.Machine
end
